-- ==== Sys2Proof/Word.lean ====
section
/-! DEFINITION. The data widths of the decoder: bytes, frames and hat codes (10_state.md section 1, 00_scope.md R5, R10, R11). -/

namespace Sys2Proof

/-- A byte: 8 bits, bit `i` of weight `2^i` (R10). -/
abbrev Byte := BitVec 8

/-- A canonical hat code; 4 bits hold it (10_state.md section 1, row `HAT`). -/
abbrev HatCode := BitVec 4

/-- A frame of `NBYTES = 5` bytes, byte 0 first (R5, R11, R42); raw or corrected according to the register that holds it. -/
abbrev Frame := Vector Byte 5

/-- The `NDATA = 4` bytes that carry button and hat information (R5, R21). -/
abbrev DataBytes := Vector Byte 4

/-- The 21 canonical button states, `true` = pressed (`NBTN = 21`, R5, R25). -/
abbrev Buttons := Vector Bool 21

end Sys2Proof
end

