-- ==== Sys2Proof/Syntax.lean ====
section
/-! DEFINITION. The syntax: variants, directions, table entries, classes, events, and `Instr`, one constructor per row of
spec/opcode_table.json (its eight frame patterns, its 26 table-entry bytes and the illegal one, its 23 operations). -/

namespace Sys2Proof

/-- The three non-absent variants, one table each (R5, R40). -/
inductive Variant where
  | a | b | c
deriving DecidableEq, Repr

/-- The values of the variant register `VAR` (R22); `absent` is the state SeekingIdentity, `held v` is Identified(v) (R27). -/
inductive WheelVariant where
  | absent
  | held (v : Variant)
deriving DecidableEq, Repr

/-- The four hat tags (R75), in the order of their raw direction codes (R78). -/
inductive Dir where
  | up | down | left | right
deriving DecidableEq, Repr

/-- The five values the sink's `setHat` accepts: centred or one of four directions (R80, R158). -/
inductive HatVal where
  | centered
  | dir (d : Dir)
deriving DecidableEq, Repr

/-- A table entry (R75): the type holds no illegal entry. -/
inductive Entry where
  | unmapped
  | button (b : Fin 21)
  | hat (d : Dir)
deriving DecidableEq, Repr

/-- The class of a frame, CLASSIFY's result (R100); the class names serve as cause codes (R170). -/
inductive FrameClass where
  | matched (v : Variant)
  | noMatch
  | absent
deriving DecidableEq, Repr

/-- The three paths of a cycle, IDSTEP's result (R108). -/
inductive Path where
  | diff
  | skip
  | absentPath
deriving DecidableEq, Repr

/-- An event: one call on the sink (R80). `setHat` carries the canonical code the sink receives. -/
inductive Event where
  | press (b : Fin 21)
  | release (b : Fin 21)
  | setHat (c : HatCode)
  | flush
deriving DecidableEq, Repr

/-- One constructor per row of spec/opcode_table.json.
A frame-pattern row carries the whole corrected frame, so that no bit of it is lost; an entry row carries nothing, its
byte is one number; an operation carries its explicit operands and has no encoding ("Encoding: none"). -/
inductive Instr where
  -- the identification patterns over the 40-bit frame, in priority order (R66)
  | idC (f : Frame)
  | idB0 (f : Frame)
  | idBesc (f : Frame)
  | idA (f : Frame)
  | nm192 (f : Frame)
  | nm160 (f : Frame)
  | nm32 (f : Frame)
  | absent (f : Frame)
  -- the table-entry bytes (R76)
  | entryUnmapped
  | entryButton0
  | entryButton1
  | entryButton2
  | entryButton3
  | entryButton4
  | entryButton5
  | entryButton6
  | entryButton7
  | entryButton8
  | entryButton9
  | entryButton10
  | entryButton11
  | entryButton12
  | entryButton13
  | entryButton14
  | entryButton15
  | entryButton16
  | entryButton17
  | entryButton18
  | entryButton19
  | entryButton20
  | entryHatUp
  | entryHatDown
  | entryHatLeft
  | entryHatRight
  -- every other byte value (R77)
  | entryIllegal (v : Byte)
  -- the operations of a cycle
  | rdframe
  | invert
  | observe
  | classify
  | idstep
  | loadvar (v : Variant)
  | skip
  | lookup (byteIndex : Fin 4) (bitIndex : Fin 8)
  | scan
  | routeBtn (b : Fin 21) (cur : Bool)
  | routeHat (d : Dir) (cur : Bool)
  | routeDrop
  | synb
  | commit
  | hatconv (d : Dir)
  | poll
  | press (b : Fin 21)
  | release (b : Fin 21)
  | sethat (v : HatVal)
  | flush
  | backoff
  | safereset
  | poreset
deriving DecidableEq, Repr

end Sys2Proof
end

