-- ==== Sys2Proof/Config.lean ====
section
/-! DEFINITION. What is fixed for the machine: the identification constants (00_scope.md R6), the parameters of R7 and R8, and
the free values that no source gives. -/

namespace Sys2Proof

namespace Config

/-- `HDR_MASK`, applied to byte 0 (R6). -/
def hdrMask : Byte := 0xE0
/-- `AUX4_MASK`, applied to byte 3 (R6). -/
def aux4Mask : Byte := 0x20
/-- `AUX5_MASK`, applied to byte 4 (R6). -/
def aux5Mask : Byte := 0x0F
/-- The recognised header value 192 (R6). -/
def hdr192 : Byte := 0xC0
/-- The recognised header value 160 (R6). -/
def hdr160 : Byte := 0xA0
/-- The recognised header value 32 (R6). -/
def hdr32 : Byte := 0x20
/-- The value both bytes 3 and 4 have in the escape pattern (R6). -/
def escByte : Byte := 0xFF
/-- The aux5 value of ID_A, 15 (R13, R104). -/
def aux5Full : Byte := 0x0F
/-- The byte of the "unmapped (-1)" marker (R76). -/
def unmappedByte : Byte := 0xFF
/-- The first hat tag byte: `32 + r` (R76). -/
def hatTagBase : Nat := 32

/-- FREE VALUE (R16, U11): the raw bytes the bus returns at the n-th draw; any five bytes, under no law. -/
opaque busFrame : Nat → Frame
/-- FREE VALUE (R7, U13): the settle delay; no rule reads it. -/
opaque tSettle : Nat
/-- FREE VALUE (R7, U13): the backoff delay; no rule reads it. -/
opaque tBackoff : Nat

end Config

/-- `SYN_GUARD_MASK` in {0x0F, 0xF0}: which nibble guards the synthetic button (R7). -/
inductive Nibble where
  | low
  | high
deriving DecidableEq, Repr

/-- The parameters of R7 (the five numbers of the VariantB synthetic button) and R8 (`HAT_CENTERED`); no operation writes them (R32).
The ranges of R122 hold by the fields' types, but for `hatCentered`, which `Params.wf` checks. -/
structure Params where
  synFlagByte : Fin 4
  synFlagBit : Fin 8
  synGuardByte : Fin 4
  synGuard : Nibble
  synButton : Fin 21
  hatCentered : HatCode
deriving DecidableEq, Repr

end Sys2Proof
end

