-- ==== Sys2Proof/Machine/Operands.lean ====
section
/-! DEFINITION. Operand assembly: the fields of a frame (30_encoding.md R60 to R65), table addresses (20_memory.md R41),
table-entry bytes (R75 to R77), direction and hat codes (R78, R150). Pure functions, no state. -/

namespace Sys2Proof

/-- `header = F[0] & 0xE0` (R61). -/
def Frame.header (f : Frame) : Byte := f[0] &&& Config.hdrMask

/-- `aux4 = F[3] & 0x20` (R62). -/
def Frame.aux4 (f : Frame) : Byte := f[3] &&& Config.aux4Mask

/-- `aux5 = F[4] & 0x0F` (R63). -/
def Frame.aux5 (f : Frame) : Byte := f[4] &&& Config.aux5Mask

/-- The escape comparison: `F[3] = 0xFF and F[4] = 0xFF` (R64). -/
def Frame.escape (f : Frame) : Bool := f[3] == Config.escByte && f[4] == Config.escByte

/-- A recognised header: one of 192, 160, 32 (R6, R106). -/
def Frame.recognised (f : Frame) : Bool :=
  f.header == Config.hdr192 || f.header == Config.hdr160 || f.header == Config.hdr32

/-- `F40 = F[0] || F[1] || F[2] || F[3] || F[4]`, `F[0]` most significant (R11). -/
def Frame.f40 (f : Frame) : BitVec 40 := f[0] ++ f[1] ++ f[2] ++ f[3] ++ f[4]

/-- The frame whose `F40` is `w`. -/
def Frame.ofF40 (w : BitVec 40) : Frame :=
  #v[w.extractLsb' 32 8, w.extractLsb' 24 8, w.extractLsb' 16 8, w.extractLsb' 8 8, w.extractLsb' 0 8]

/-- The polarity inversion: every bit of every byte (R91). -/
def Frame.invert (r : Frame) : Frame := Vector.ofFn fun k : Fin 5 => ~~~ r[k]

/-- Byte `k` of the four data bytes of a frame (R60). -/
def Frame.data (f : Frame) : DataBytes := Vector.ofFn fun k : Fin 4 => f[k.castSucc]

/-- Bit `i` of a byte, the bit of weight `2^i` (R10). -/
def bitOf (v : Byte) (i : Fin 8) : Bool := v.getLsbD i

/-- `idx = byteIndex*8 + bitIndex`, in 0..31 (R12, R41, R65). -/
def linearIndex (k : Fin 4) (i : Fin 8) : Fin 32 := ⟨k.val * 8 + i.val, by omega⟩

/-- The visiting order of SCAN: byte 0 to 3, and bit 7 down to 0 within a byte (R130, R136). -/
def scanOrder : List (Fin 4 × Fin 8) :=
  ([0, 1, 2, 3] : List (Fin 4)).flatMap fun k => ([7, 6, 5, 4, 3, 2, 1, 0] : List (Fin 8)).map fun i => (k, i)

/-- The place of a variant's table in the table space. DESIGN CHOICE (log 4): the spec's address is the pair (variant, idx). -/
def Variant.code : Variant → Nat
  | .a => 0
  | .b => 1
  | .c => 2

/-- The address of entry `idx` of the table of variant `v` (R40). DESIGN CHOICE (log 4): the numbering of the pairs. -/
def tableAddr (v : Variant) (idx : Fin 32) : Nat := v.code * 32 + idx.val

/-- The raw direction code of a tag (R78). -/
def Dir.rawCode : Dir → Nat
  | .up => 0
  | .down => 1
  | .left => 2
  | .right => 3

/-- HATCONV's function: Up 1, Down 3, Left 5, Right 7 (R150). -/
def hatconv : Dir → HatCode
  | .up => 1
  | .down => 3
  | .left => 5
  | .right => 7

/-- The canonical code of a hat value: `HAT_CENTERED` (R151) or HATCONV's (R150). -/
def HatVal.code (p : Params) : HatVal → HatCode
  | .centered => p.hatCentered
  | .dir d => hatconv d

/-- `SYN_GUARD_MASK` as a byte mask (R7). -/
def Nibble.mask : Nibble → Byte
  | .low => 0x0F
  | .high => 0xF0

/-- The byte of an entry: -1, the button number, or 32 + r (R76). -/
def Entry.toByte : Entry → Byte
  | .unmapped => Config.unmappedByte
  | .button b => BitVec.ofNat 8 b.val
  | .hat d => BitVec.ofNat 8 (Config.hatTagBase + d.rawCode)

/-- The entry a table byte holds; none for an illegal byte (R76, R77). -/
def Entry.ofByte (v : Byte) : Option Entry :=
  if v = Config.unmappedByte then some .unmapped
  else if h : v.toNat < 21 then some (.button ⟨v.toNat, h⟩)
  else if v.toNat = Config.hatTagBase then some (.hat .up)
  else if v.toNat = Config.hatTagBase + 1 then some (.hat .down)
  else if v.toNat = Config.hatTagBase + 2 then some (.hat .left)
  else if v.toNat = Config.hatTagBase + 3 then some (.hat .right)
  else none

end Sys2Proof
end

