-- ==== Sys2Proof/WellFormed.lean ====
section
/-! DEFINITION. Well-formed terms: a frame-pattern row holds a frame of its own set (30_encoding.md R67), the illegal-entry row
holds an illegal byte (R77), and the parameters are as 42_bit_button_map.md R122 asks. -/

namespace Sys2Proof

namespace WellFormed

/-- The set ID_C of R67. -/
def setIdC (f : Frame) : Bool := f.header == Config.hdr160 && f.aux5 == 0

/-- The set ID_B0 of R67. -/
def setIdB0 (f : Frame) : Bool := f.header == Config.hdr32 && f.aux4 == 0 && f.aux5 == 0

/-- The set ID_BESC of R67. -/
def setIdBesc (f : Frame) : Bool := f.header == Config.hdr32 && f[3] == 0xFF && f[4] == 0xFF

/-- The set ID_A of R67. -/
def setIdA (f : Frame) : Bool :=
  f.header == Config.hdr32 && f.aux5 == 15 && !(f[3] == 0xFF && f[4] == 0xFF)

/-- The set NM_192 of R67. -/
def setNm192 (f : Frame) : Bool := f.header == Config.hdr192

/-- The set NM_160 of R67. -/
def setNm160 (f : Frame) : Bool :=
  f.header == Config.hdr160 && decide (1 ≤ f.aux5.toNat ∧ f.aux5.toNat ≤ 15)

/-- The set NM_32 of R67. -/
def setNm32 (f : Frame) : Bool :=
  f.header == Config.hdr32 &&
    (decide (1 ≤ f.aux5.toNat ∧ f.aux5.toNat ≤ 14) || (f.aux5 == 0 && f.aux4 == 0x20))

/-- The set ABSENT of R67. -/
def setAbsent (f : Frame) : Bool :=
  f.header == 0 || f.header == 64 || f.header == 96 || f.header == 128 || f.header == 224

end WellFormed

/-- A byte that no legal table entry has (R77). -/
def illegalEntryByte (v : Byte) : Bool := (Entry.ofByte v).isNone

/-- The well-formed instructions: the row's frame is in the row's set, the illegal row's byte is illegal; an operation's
operands are in range by their types. -/
def Instr.wf : Instr → Bool
  | .idC f => WellFormed.setIdC f
  | .idB0 f => WellFormed.setIdB0 f
  | .idBesc f => WellFormed.setIdBesc f
  | .idA f => WellFormed.setIdA f
  | .nm192 f => WellFormed.setNm192 f
  | .nm160 f => WellFormed.setNm160 f
  | .nm32 f => WellFormed.setNm32 f
  | .absent f => WellFormed.setAbsent f
  | .entryUnmapped => true
  | .entryButton0 => true
  | .entryButton1 => true
  | .entryButton2 => true
  | .entryButton3 => true
  | .entryButton4 => true
  | .entryButton5 => true
  | .entryButton6 => true
  | .entryButton7 => true
  | .entryButton8 => true
  | .entryButton9 => true
  | .entryButton10 => true
  | .entryButton11 => true
  | .entryButton12 => true
  | .entryButton13 => true
  | .entryButton14 => true
  | .entryButton15 => true
  | .entryButton16 => true
  | .entryButton17 => true
  | .entryButton18 => true
  | .entryButton19 => true
  | .entryButton20 => true
  | .entryHatUp => true
  | .entryHatDown => true
  | .entryHatLeft => true
  | .entryHatRight => true
  | .entryIllegal v => illegalEntryByte v
  | .rdframe => true
  | .invert => true
  | .observe => true
  | .classify => true
  | .idstep => true
  | .loadvar _ => true
  | .skip => true
  | .lookup _ _ => true
  | .scan => true
  | .routeBtn _ _ => true
  | .routeHat _ _ => true
  | .routeDrop => true
  | .synb => true
  | .commit => true
  | .hatconv _ => true
  | .poll => true
  | .press _ => true
  | .release _ => true
  | .sethat _ => true
  | .flush => true
  | .backoff => true
  | .safereset => true
  | .poreset => true

/-- `HAT_CENTERED` is not one of 1..8 (R122); the other clauses of R122 about the parameters hold by the types of `Params`. -/
def Params.wf (p : Params) : Bool := decide (p.hatCentered.toNat = 0 ∨ 8 < p.hatCentered.toNat)

end Sys2Proof
end

