-- ==== Sys2Proof/Decode.lean ====
section
/-! DEFINITION. Decoding: the eight patterns over `F40` in priority order (30_encoding.md R66, spec/opcode_table.json), the
table-entry bytes (R76, R77), decoding of any bytes with a rejection by name, and the encoder written from the same tables. -/

namespace Sys2Proof

/-- A row of the pattern table: it matches when `(F40 & mask) = pattern` (R66). -/
structure PatternRow where
  mask : BitVec 40
  pattern : BitVec 40
deriving DecidableEq, Repr

/-- `(F40 & mask) = match` (R66). -/
def PatternRow.hits (r : PatternRow) (f : Frame) : Bool := f.f40 &&& r.mask == r.pattern

/-- Row 1, ID_C. -/
def rowIdC : PatternRow := { mask := 0xE00000000F, pattern := 0xA000000000 }
/-- Row 2, ID_B0. -/
def rowIdB0 : PatternRow := { mask := 0xE00000200F, pattern := 0x2000000000 }
/-- Row 3, ID_BESC. -/
def rowIdBesc : PatternRow := { mask := 0xE00000FFFF, pattern := 0x200000FFFF }
/-- Row 4, ID_A. -/
def rowIdA : PatternRow := { mask := 0xE00000000F, pattern := 0x200000000F }
/-- Row 5, NM_192. -/
def rowNm192 : PatternRow := { mask := 0xE000000000, pattern := 0xC000000000 }
/-- Row 6, NM_160. -/
def rowNm160 : PatternRow := { mask := 0xE000000000, pattern := 0xA000000000 }
/-- Row 7, NM_32. -/
def rowNm32 : PatternRow := { mask := 0xE000000000, pattern := 0x2000000000 }
/-- Row 8, ABSENT, the default row: mask and match are zero. -/
def rowAbsent : PatternRow := { mask := 0x0000000000, pattern := 0x0000000000 }

/-- The first row that matches gives the instruction (R66, R173); the last row's mask is zero, so a row always matches. -/
def decodeFrame (f : Frame) : Instr :=
  if rowIdC.hits f then .idC f
  else if rowIdB0.hits f then .idB0 f
  else if rowIdBesc.hits f then .idBesc f
  else if rowIdA.hits f then .idA f
  else if rowNm192.hits f then .nm192 f
  else if rowNm160.hits f then .nm160 f
  else if rowNm32.hits f then .nm32 f
  else .absent f

/-- The rows ENTRY_BUTTON_0 .. ENTRY_BUTTON_20, by button number. -/
def buttonRows : Vector Instr 21 :=
  #v[.entryButton0, .entryButton1, .entryButton2, .entryButton3, .entryButton4, .entryButton5, .entryButton6, .entryButton7, .entryButton8, .entryButton9, .entryButton10, .entryButton11, .entryButton12, .entryButton13, .entryButton14, .entryButton15, .entryButton16, .entryButton17, .entryButton18, .entryButton19, .entryButton20]

/-- The row of a table entry. -/
def Entry.instr : Entry → Instr
  | .unmapped => .entryUnmapped
  | .button b => buttonRows[b]
  | .hat .up => .entryHatUp
  | .hat .down => .entryHatDown
  | .hat .left => .entryHatLeft
  | .hat .right => .entryHatRight

/-- One byte of a table: the row of its entry, or ENTRY_ILLEGAL (R76, R77). -/
def decodeEntry (v : Byte) : Instr :=
  match Entry.ofByte v with
  | some e => e.instr
  | none => .entryIllegal v

/-- Why bytes are no instruction. -/
inductive DecodeError where
  /-- Neither one table byte nor a frame: a frame is exactly 5 bytes (R85), one of another length cannot be presented (R44). -/
  | badLength (n : Nat)
deriving DecidableEq, Repr

/-- Decoding of any bytes: one byte is a table entry, five are a corrected frame, byte 0 first; any other length is rejected. -/
def decode : List Byte → Except DecodeError Instr
  | [v] => .ok (decodeEntry v)
  | [b0, b1, b2, b3, b4] => .ok (decodeFrame #v[b0, b1, b2, b3, b4])
  | bs => .error (.badLength bs.length)

/-- The entry an entry row stands for. -/
def Instr.entry? : Instr → Option Entry
  | .idC _ => none
  | .idB0 _ => none
  | .idBesc _ => none
  | .idA _ => none
  | .nm192 _ => none
  | .nm160 _ => none
  | .nm32 _ => none
  | .absent _ => none
  | .entryUnmapped => some .unmapped
  | .entryButton0 => some (.button 0)
  | .entryButton1 => some (.button 1)
  | .entryButton2 => some (.button 2)
  | .entryButton3 => some (.button 3)
  | .entryButton4 => some (.button 4)
  | .entryButton5 => some (.button 5)
  | .entryButton6 => some (.button 6)
  | .entryButton7 => some (.button 7)
  | .entryButton8 => some (.button 8)
  | .entryButton9 => some (.button 9)
  | .entryButton10 => some (.button 10)
  | .entryButton11 => some (.button 11)
  | .entryButton12 => some (.button 12)
  | .entryButton13 => some (.button 13)
  | .entryButton14 => some (.button 14)
  | .entryButton15 => some (.button 15)
  | .entryButton16 => some (.button 16)
  | .entryButton17 => some (.button 17)
  | .entryButton18 => some (.button 18)
  | .entryButton19 => some (.button 19)
  | .entryButton20 => some (.button 20)
  | .entryHatUp => some (.hat .up)
  | .entryHatDown => some (.hat .down)
  | .entryHatLeft => some (.hat .left)
  | .entryHatRight => some (.hat .right)
  | .entryIllegal _ => none
  | .rdframe => none
  | .invert => none
  | .observe => none
  | .classify => none
  | .idstep => none
  | .loadvar _ => none
  | .skip => none
  | .lookup _ _ => none
  | .scan => none
  | .routeBtn _ _ => none
  | .routeHat _ _ => none
  | .routeDrop => none
  | .synb => none
  | .commit => none
  | .hatconv _ => none
  | .poll => none
  | .press _ => none
  | .release _ => none
  | .sethat _ => none
  | .flush => none
  | .backoff => none
  | .safereset => none
  | .poreset => none

/-- The bytes of an instruction: a pattern row's corrected frame, an entry row's byte; an operation has no encoding (R90 ..). -/
def encode : Instr → Option (List Byte)
  | .idC f => some f.toList
  | .idB0 f => some f.toList
  | .idBesc f => some f.toList
  | .idA f => some f.toList
  | .nm192 f => some f.toList
  | .nm160 f => some f.toList
  | .nm32 f => some f.toList
  | .absent f => some f.toList
  | .entryUnmapped => some [0xFF]
  | .entryButton0 => some [0x00]
  | .entryButton1 => some [0x01]
  | .entryButton2 => some [0x02]
  | .entryButton3 => some [0x03]
  | .entryButton4 => some [0x04]
  | .entryButton5 => some [0x05]
  | .entryButton6 => some [0x06]
  | .entryButton7 => some [0x07]
  | .entryButton8 => some [0x08]
  | .entryButton9 => some [0x09]
  | .entryButton10 => some [0x0A]
  | .entryButton11 => some [0x0B]
  | .entryButton12 => some [0x0C]
  | .entryButton13 => some [0x0D]
  | .entryButton14 => some [0x0E]
  | .entryButton15 => some [0x0F]
  | .entryButton16 => some [0x10]
  | .entryButton17 => some [0x11]
  | .entryButton18 => some [0x12]
  | .entryButton19 => some [0x13]
  | .entryButton20 => some [0x14]
  | .entryHatUp => some [0x20]
  | .entryHatDown => some [0x21]
  | .entryHatLeft => some [0x22]
  | .entryHatRight => some [0x23]
  | .entryIllegal v => some [v]
  | .rdframe => none
  | .invert => none
  | .observe => none
  | .classify => none
  | .idstep => none
  | .loadvar _ => none
  | .skip => none
  | .lookup _ _ => none
  | .scan => none
  | .routeBtn _ _ => none
  | .routeHat _ _ => none
  | .routeDrop => none
  | .synb => none
  | .commit => none
  | .hatconv _ => none
  | .poll => none
  | .press _ => none
  | .release _ => none
  | .sethat _ => none
  | .flush => none
  | .backoff => none
  | .safereset => none
  | .poreset => none

/-- The instruction the decoder reads from a table row's word (the host's question).
An `ENTRY8` word is one byte; a `FRAME40` word is `F40`, whose top byte is `F[0]` (R11), 5 bytes.
The reader's `fields` give some ENTRY rows a bit position above 7 (the literal `b` read as a position); 98_reader.md says the
spec's words are right there, so a row of fewer than 40 bits is its entry byte, bits 7..0. -/
def decodeTableWord (nbits w : Nat) : Option Instr :=
  if nbits = 0 then none
  else if nbits < 40 then (decode [BitVec.ofNat 8 w]).toOption
  else if nbits = 40 then (decode (Frame.ofF40 (BitVec.ofNat 40 w)).toList).toOption
  else none

end Sys2Proof
end

