-- ==== Sys2Proof/Machine/State.lean ====
section
/-! DEFINITION. The state of the decoder as plain data, its reset, and the reasons to stop (10_state.md, 70_reset_and_hazards.md R190). -/

namespace Sys2Proof.Machine

/-- The table space: cells (address, byte), addresses strictly rising, all below 96, no byte equal to what an unlisted address
reads as (20_memory.md R40, R46). -/
abbrev Memory := List Host.Cell

/-- The sink's report object `REP = (rb[0..20], rh)` (R160). -/
structure Report where
  rb : Buttons
  rh : HatCode
deriving DecidableEq, Repr

/-- The reference sink of R160: the report object and the list of reports sent, oldest first. It is outside the decoder:
only emitted events change it and no operation reads it (R162). -/
structure Sink where
  rep : Report
  sent : List Report
deriving DecidableEq, Repr

/-- The locals of POLL's pseudocode (R155), held so that each operation has a meaning of its own (log 1).
`raw`, `f`: R20, R90; `cls`: R100; `path`: R108; the scan position: R28; `entry`: LOOKUP's result, R121; `code`: the `c` of R132.
They carry nothing from one cycle to the next. -/
structure Locals where
  raw : Frame
  f : Frame
  cls : FrameClass
  path : Path
  byteIndex : Fin 4
  bitIndex : Fin 8
  entry : Entry
  code : HatCode
deriving DecidableEq, Repr

/-- The machine. The registers of 10_state.md, the locals of one cycle, the constant configuration (R7, R8, R32), and what stands
outside the decoder: the frames the bus will present (R16) and the reference sink (R160). -/
structure State where
  /-- `PREV[0..3]` (R21). -/
  prev : DataBytes
  /-- `VAR` (R22). -/
  var : WheelVariant
  /-- `SAFE` (R23). -/
  safe : Bool
  /-- `SYNPREV` (R24). -/
  synPrev : Bool
  /-- `BTN[0..20]` (R25). -/
  btn : Buttons
  /-- `HAT` (R26). -/
  hat : HatCode
  /-- The locals of the current cycle. -/
  loc : Locals
  /-- The ordered event list of the current cycle (R14, R80); after a step, the events POLL returns (R155). -/
  events : List Event
  /-- The table space, constant data (R40, R76). -/
  rom : Memory
  /-- The parameters of R7 and R8, constant. -/
  params : Params
  /-- Frames already presented on the bus, first one next (R16); when it is empty the bus returns a free frame. -/
  bus : List Frame
  /-- The model's own counter of free frames drawn (log 3). -/
  draws : Nat
  /-- The reference sink (R160). -/
  sink : Sink
deriving DecidableEq, Repr

/-- Reasons to stop with a fault. No step of a well-formed machine reaches one (R18); only an operation run on its own, outside
the cycle that the spec gives it, does. -/
inductive Fault where
  /-- Raised by LOOKUP with `VAR` = Absent: there is no table for Absent (R40, R51). Safe: the spec gives such a read no result. -/
  | noTableForAbsent
  /-- Raised by LOADVAR while a variant is held: its precondition is `VAR = Absent` (R109, R22). Safe: the model stops. -/
  | variantAlreadyHeld
deriving DecidableEq, Repr

/-- Reasons to refuse. -/
inductive Refusal where
  /-- Raised by exec for an instruction with no meaning yet. Safe. -/
  | notModelled (mnemonic : String)
  /-- Raised by POLL on an ill-formed configuration, by LOOKUP on an illegal entry, and by ENTRY_ILLEGAL (R18, R77, R122).
  Safe: a refused configuration proves nothing. -/
  | illFormedConfig
deriving DecidableEq, Repr

/-- The answer of a meaning. -/
abbrev Result := Host.Outcome State Fault Refusal

/-- The locals right after reset. DESIGN CHOICE (log 2): the spec gives them no value (R33). -/
def Locals.reset : Locals :=
  { raw := #v[0, 0, 0, 0, 0], f := #v[0, 0, 0, 0, 0], cls := .absent, path := .skip, byteIndex := 0, bitIndex := 7,
    entry := .unmapped, code := 0 }

/-- The parameters right after reset: `HAT_CENTERED = 0` (R8); the synthetic button's numbers are the fixture's of
95_test_vectors.md. DESIGN CHOICE (log 6), unsafe: no source gives the real ones, and no statement rests on them. -/
def Params.reset : Params :=
  { synFlagByte := 2, synFlagBit := 4, synGuardByte := 2, synGuard := .low, synButton := 20, hatCentered := 0 }

/-- The reference sink at power-on: all released, centred, nothing sent (R160, R192 b). -/
def Sink.reset : Sink :=
  { rep := { rb := Vector.replicate 21 false, rh := 0 }, sent := [] }

/-- The machine right after power-on reset (R33, R190); nothing is listed in the table space (log 5), nothing is presented on the bus. -/
def State.reset : State :=
  { prev := #v[0, 0, 0, 0], var := .absent, safe := false, synPrev := false, btn := Vector.replicate 21 false,
    hat := 0, loc := Locals.reset, events := [], rom := [], params := Params.reset, bus := [], draws := 0,
    sink := Sink.reset }

end Sys2Proof.Machine
end

