-- ==== Sys2Proof/Machine/Ops.lean ====
section
/-! DEFINITION. The named operations the meanings share: sequencing, register writes, the table space, events and the sink, the
frame input, and the safe-state reset, which is the decoder's one exception entry (60_exceptions.md R174), with the return
beside it (R109, R176). -/

namespace Sys2Proof.Machine

/-- First `r`, then `k` on its next state; a fault or a refusal ends the sequence. -/
def andThen (r : Result) (k : State → Result) : Result :=
  match r with
  | .next s => k s
  | .fault x => .fault x
  | .refused x => .refused x

/-- The items of a list in order, each by `f`, stopping where one stops. -/
def forEach {α : Type} (f : α → State → Result) : List α → State → Result
  | [], s => .next s
  | x :: xs, s => andThen (f x s) (forEach f xs)

/-! ### The table space (20_memory.md) -/

/-- What an unlisted address of the table space reads as: `Unmapped`. DESIGN CHOICE (log 5): no source gives the contents. -/
def Memory.unlisted : Byte := Config.unmappedByte

/-- The number of entries of the table space: three tables of 32 (R46). -/
def Memory.size : Nat := 96

/-- The byte at an address. -/
def Memory.read : Memory → Nat → Byte
  | [], _ => Memory.unlisted
  | (a, v) :: m, addr => if a = addr then v else Memory.read m addr

/-- Store one byte in canonical form. No operation of the decoder writes the table space (R14: MemWrite does not exist); this is
how the surroundings provide the tables before the first cycle (R192 a). An address outside the space holds nothing. -/
def Memory.insert : Memory → Nat → Byte → Memory
  | [], addr, v => if v = Memory.unlisted then [] else [(addr, v)]
  | (a, w) :: m, addr, v =>
    if addr < a then (if v = Memory.unlisted then (a, w) :: m else (addr, v) :: (a, w) :: m)
    else if addr = a then (if v = Memory.unlisted then m else (addr, v) :: m)
    else (a, w) :: Memory.insert m addr v

/-- Provide one entry byte of a table. -/
def Memory.provide (m : Memory) (v : Variant) (idx : Fin 32) (byte : Byte) : Memory :=
  m.insert (tableAddr v idx) byte

/-- The canonical form from address `low` on: addresses strictly rising and inside the space, no byte equal to the unlisted one. -/
def Memory.wfFrom (low : Nat) : Memory → Bool
  | [] => true
  | (a, v) :: m => decide (low ≤ a) && decide (a < Memory.size) && (v != Memory.unlisted) && Memory.wfFrom (a + 1) m

/-- The canonical form. -/
def Memory.wf (m : Memory) : Bool := Memory.wfFrom 0 m

/-- Every one of the 96 entries is legal (R122). -/
def Memory.legal (m : Memory) : Bool :=
  (List.range Memory.size).all fun a => (Entry.ofByte (m.read a)).isSome

namespace State

/-- `TblRead(v, idx)` as the byte the table holds (R51, R76). -/
def tblByte (s : State) (v : Variant) (idx : Fin 32) : Byte := s.rom.read (tableAddr v idx)

/-- The configuration is well formed (R122): checked by POLL before anything else. -/
def configOk (s : State) : Bool := s.rom.legal && s.params.wf

/-! ### Register writes, whole-register (R45) -/

/-- Replace the cycle's locals. -/
def withLoc (s : State) (l : Locals) : State := { s with loc := l }
/-- `PREV <- p`. -/
def withPrev (s : State) (p : DataBytes) : State := { s with prev := p }
/-- `VAR <- v`. -/
def withVar (s : State) (v : WheelVariant) : State := { s with var := v }
/-- `SAFE <- x`. -/
def withSafe (s : State) (x : Bool) : State := { s with safe := x }
/-- `SYNPREV <- x`. -/
def withSynPrev (s : State) (x : Bool) : State := { s with synPrev := x }
/-- `BTN[b] <- x`. -/
def withBtn (s : State) (b : Fin 21) (x : Bool) : State := { s with btn := s.btn.set b x }
/-- `HAT <- c`. -/
def withHat (s : State) (c : HatCode) : State := { s with hat := c }
/-- Set the cycle's event list. -/
def withEvents (s : State) (es : List Event) : State := { s with events := es }
/-- Replace the frames presented on the bus. -/
def withBus (s : State) (fs : List Frame) : State := { s with bus := fs }

end State

/-! ### Events and the reference sink -/

/-- What one event does to the report object (R160). -/
def Report.apply (r : Report) : Event → Report
  | .press b => { r with rb := r.rb.set b true }
  | .release b => { r with rb := r.rb.set b false }
  | .setHat c => { r with rh := c }
  | .flush => r

/-- What one event does to the reference sink: the report object follows, and a flush appends a copy of it to what was sent (R160). -/
def Sink.apply (k : Sink) : Event → Sink
  | .flush => { k with sent := k.sent ++ [k.rep] }
  | e => { k with rep := k.rep.apply e }

/-- `emit e` (R14): append to the cycle's list; the event reaches the sink in emission order (R47). -/
def emit (e : Event) (s : State) : State :=
  { s with events := s.events ++ [e], sink := s.sink.apply e }

/-- Write `BTN[b]` and emit the matching event (R31, R131): the shared operation of PRESS and RELEASE. -/
def setButton (b : Fin 21) (x : Bool) (s : State) : State :=
  emit (if x then .press b else .release b) (s.withBtn b x)

/-- Write `HAT` and emit the matching event (R31, R132): the shared operation of SETHAT and ROUTE_HAT. -/
def setHatCode (c : HatCode) (s : State) : State := emit (.setHat c) (s.withHat c)

/-! ### The frame input -/

/-- The next raw frame of the bus: the first one presented, else a free frame (R16, R90). -/
def nextFrame (s : State) : Frame :=
  match s.bus with
  | r :: _ => r
  | [] => Config.busFrame s.draws

/-- The bus after a read: each read samples anew (R45). -/
def consumeFrame (s : State) : State :=
  match s.bus with
  | _ :: rest => s.withBus rest
  | [] => { s with draws := s.draws + 1 }

/-- The level of the bit at the scan position in the current frame: `cur` of R130. -/
def curBit (s : State) : Bool := bitOf s.loc.f.data[s.loc.byteIndex] s.loc.bitIndex

/-- The level of the bit at the scan position in the previous frame: `prev` of R130. -/
def prevBit (s : State) : Bool := bitOf s.prev[s.loc.byteIndex] s.loc.bitIndex

/-- The class of the row, and the row's frame as the current frame (R101 to R106); in a cycle `f` is already `F` (log 8). -/
def latchRow (f : Frame) (c : FrameClass) (s : State) : State := s.withLoc { s.loc with f := f, cls := c }

/-! ### The exception entry and its return -/

/-- The safe-state reset (R174): every button released in ascending order, the hat centred, `PREV` and `SYNPREV` cleared,
`SAFE` set, one flush. Nothing is saved. -/
def enterSafeState (s : State) : State :=
  let released := (List.finRange 21).foldl (fun t b => setButton b false t) s
  let centred := setHatCode s.params.hatCentered released
  emit .flush (((centred.withPrev #v[0, 0, 0, 0]).withSynPrev false).withSafe true)

/-- The return (R176): the variant is held, nothing else is restored, since nothing was saved (R109). -/
def holdVariant (v : Variant) (s : State) : State := s.withVar (.held v)

end Sys2Proof.Machine
end

