-- ==== Sys2Proof/Machine/ButtonMap.lean ====
section
/-! DEFINITION. BitButtonMap: LOOKUP (42_bit_button_map.md R121). -/

namespace Sys2Proof.Machine

/-- LOOKUP: entry `byteIndex*8 + bitIndex` of the table `VAR` names, as the operation's result (R121, R125).
There is no table for Absent (R40); a table that holds an illegal entry is refused (R77, R122). -/
def execLookup (k : Fin 4) (i : Fin 8) (s : State) : Result :=
  match s.var with
  | .absent => .fault .noTableForAbsent
  | .held v =>
    match Entry.ofByte (s.tblByte v (linearIndex k i)) with
    | some e => .next (s.withLoc { s.loc with entry := e })
    | none => .refused .illFormedConfig

end Sys2Proof.Machine
end

