-- ==== Sys2Proof/Machine/Flags.lean ====
section
/-! DEFINITION. The one-bit status registers. There are no condition codes (10_state.md R29); `SYNPREV` follows the VariantB
synthetic-button condition (R24, R134), `SAFE` the safe-state reset and COMMIT (R23). -/

namespace Sys2Proof.Machine

/-- The synthetic-button condition: the flag bit is set and the guard nibble is fully clear (R134). -/
def synCondition (p : Params) (f : Frame) : Bool :=
  bitOf f.data[p.synFlagByte] p.synFlagBit && (f.data[p.synGuardByte] &&& p.synGuard.mask == 0)

/-- The condition on the current frame. -/
def State.syn (s : State) : Bool := synCondition s.params s.loc.f

/-- `SAFE` after COMMIT: no safe-state reset since a diff cycle (R23, R135). -/
def clearSafe (s : State) : State := s.withSafe false

end Sys2Proof.Machine
end

