-- ==== Sys2Proof/Machine/Hat.lean ====
section
/-! DEFINITION. The hat-direction encoder (44_hat_converter.md R150). -/

namespace Sys2Proof.Machine

/-- HATCONV: the canonical code of the tag, as the operation's result; no register of the decoder is written (R150). -/
def execHatconv (d : Dir) (s : State) : Result := .next (s.withLoc { s.loc with code := hatconv d })

end Sys2Proof.Machine
end

