-- ==== Sys2Proof/Machine/Detector.lean ====
section
/-! DEFINITION. The change detector: ROUTE_BTN, ROUTE_HAT, ROUTE_DROP, SCAN, SYNB, COMMIT (43_change_detector.md R130 to R136). -/

namespace Sys2Proof.Machine

/-- ROUTE_BTN: `BTN[b] <- cur`, then `Press(b)` or `Release(b)` (R131). -/
def execRouteBtn (b : Fin 21) (cur : Bool) (s : State) : Result := .next (setButton b cur s)

/-- ROUTE_HAT: an active bit sets HATCONV's code, an inactive bit centres the hat whatever was active (R132). -/
def execRouteHat (d : Dir) (cur : Bool) (s : State) : Result :=
  andThen (if cur then execHatconv d s else .next (s.withLoc { s.loc with code := s.params.hatCentered }))
    fun t => .next (setHatCode t.loc.code t)

/-- ROUTE_DROP: a changed bit with no mapping is dropped silently (R133). -/
def execRouteDrop (s : State) : Result := .next s

/-- The case of R130 on the entry that was looked up, for the bit at the scan position. -/
def routeEntry (e : Entry) (s : State) : Result :=
  match e with
  | .button b => execRouteBtn b (curBit s) s
  | .hat d => execRouteHat d (curBit s) s
  | .unmapped => execRouteDrop s

/-- The scan position `(byteIndex, bitIndex)` (R28). -/
def moveScan (p : Fin 4 × Fin 8) (s : State) : State :=
  s.withLoc { s.loc with byteIndex := p.1, bitIndex := p.2 }

/-- One visit of SCAN: a changed bit is looked up and routed, an unchanged one produces nothing (R130). -/
def visit (p : Fin 4 × Fin 8) (s : State) : Result :=
  let t := moveScan p s
  if curBit t = prevBit t then .next t
  else andThen (execLookup p.1 p.2 t) fun u => routeEntry u.loc.entry u

/-- SCAN: every position in visiting order; `PREV` is not written (R130, R136). -/
def execScan (s : State) : Result := forEach visit scanOrder s

/-- SYNB: when `VAR = B`, a change of the condition writes `BTN[SYN_BUTTON]`, emits the event and updates `SYNPREV` (R134). -/
def execSynb (s : State) : Result :=
  if s.var = .held .b ∧ s.syn ≠ s.synPrev then
    .next ((setButton s.params.synButton s.syn s).withSynPrev s.syn)
  else .next s

/-- COMMIT: `PREV[k] <- F[k]` for k in 0..3, `SAFE <- 0` (R135). -/
def execCommit (s : State) : Result := .next (clearSafe (s.withPrev s.loc.f.data))

end Sys2Proof.Machine
end

