-- ==== Sys2Proof/Machine/Entries.lean ====
section
/-! DEFINITION. The table-entry bytes as instructions: what an entry makes of the changed bit at the scan position
(30_encoding.md R76; their meanings: 43_change_detector.md R131 to R133), and the illegal one (R77). -/

namespace Sys2Proof.Machine

/-- ENTRY_UNMAPPED: drop (R133). -/
def execEntryUnmapped (s : State) : Result := routeEntry .unmapped s
/-- ENTRY_BUTTON_0: the changed bit sets or clears button 0 (R131). -/
def execEntryButton0 (s : State) : Result := routeEntry (.button 0) s
/-- ENTRY_BUTTON_1: the changed bit sets or clears button 1 (R131). -/
def execEntryButton1 (s : State) : Result := routeEntry (.button 1) s
/-- ENTRY_BUTTON_2: the changed bit sets or clears button 2 (R131). -/
def execEntryButton2 (s : State) : Result := routeEntry (.button 2) s
/-- ENTRY_BUTTON_3: the changed bit sets or clears button 3 (R131). -/
def execEntryButton3 (s : State) : Result := routeEntry (.button 3) s
/-- ENTRY_BUTTON_4: the changed bit sets or clears button 4 (R131). -/
def execEntryButton4 (s : State) : Result := routeEntry (.button 4) s
/-- ENTRY_BUTTON_5: the changed bit sets or clears button 5 (R131). -/
def execEntryButton5 (s : State) : Result := routeEntry (.button 5) s
/-- ENTRY_BUTTON_6: the changed bit sets or clears button 6 (R131). -/
def execEntryButton6 (s : State) : Result := routeEntry (.button 6) s
/-- ENTRY_BUTTON_7: the changed bit sets or clears button 7 (R131). -/
def execEntryButton7 (s : State) : Result := routeEntry (.button 7) s
/-- ENTRY_BUTTON_8: the changed bit sets or clears button 8 (R131). -/
def execEntryButton8 (s : State) : Result := routeEntry (.button 8) s
/-- ENTRY_BUTTON_9: the changed bit sets or clears button 9 (R131). -/
def execEntryButton9 (s : State) : Result := routeEntry (.button 9) s
/-- ENTRY_BUTTON_10: the changed bit sets or clears button 10 (R131). -/
def execEntryButton10 (s : State) : Result := routeEntry (.button 10) s
/-- ENTRY_BUTTON_11: the changed bit sets or clears button 11 (R131). -/
def execEntryButton11 (s : State) : Result := routeEntry (.button 11) s
/-- ENTRY_BUTTON_12: the changed bit sets or clears button 12 (R131). -/
def execEntryButton12 (s : State) : Result := routeEntry (.button 12) s
/-- ENTRY_BUTTON_13: the changed bit sets or clears button 13 (R131). -/
def execEntryButton13 (s : State) : Result := routeEntry (.button 13) s
/-- ENTRY_BUTTON_14: the changed bit sets or clears button 14 (R131). -/
def execEntryButton14 (s : State) : Result := routeEntry (.button 14) s
/-- ENTRY_BUTTON_15: the changed bit sets or clears button 15 (R131). -/
def execEntryButton15 (s : State) : Result := routeEntry (.button 15) s
/-- ENTRY_BUTTON_16: the changed bit sets or clears button 16 (R131). -/
def execEntryButton16 (s : State) : Result := routeEntry (.button 16) s
/-- ENTRY_BUTTON_17: the changed bit sets or clears button 17 (R131). -/
def execEntryButton17 (s : State) : Result := routeEntry (.button 17) s
/-- ENTRY_BUTTON_18: the changed bit sets or clears button 18 (R131). -/
def execEntryButton18 (s : State) : Result := routeEntry (.button 18) s
/-- ENTRY_BUTTON_19: the changed bit sets or clears button 19 (R131). -/
def execEntryButton19 (s : State) : Result := routeEntry (.button 19) s
/-- ENTRY_BUTTON_20: the changed bit sets or clears button 20 (R131). -/
def execEntryButton20 (s : State) : Result := routeEntry (.button 20) s
/-- ENTRY_HAT_UP: the changed bit sets the hat to 1 or centres it (R132). -/
def execEntryHatUp (s : State) : Result := routeEntry (.hat .up) s
/-- ENTRY_HAT_DOWN: the changed bit sets the hat to 3 or centres it (R132). -/
def execEntryHatDown (s : State) : Result := routeEntry (.hat .down) s
/-- ENTRY_HAT_LEFT: the changed bit sets the hat to 5 or centres it (R132). -/
def execEntryHatLeft (s : State) : Result := routeEntry (.hat .left) s
/-- ENTRY_HAT_RIGHT: the changed bit sets the hat to 7 or centres it (R132). -/
def execEntryHatRight (s : State) : Result := routeEntry (.hat .right) s
/-- ENTRY_ILLEGAL: the decoder is not defined on a table that holds one; the configuration is refused (R77, R122). -/
def execEntryIllegal (_ : Byte) (_ : State) : Result := .refused .illFormedConfig

end Sys2Proof.Machine
end

