-- ==== Sys2Proof/Machine/Patterns.lean ====
section
/-! DEFINITION. The identification patterns: the result of each row (41_variant_identifier.md R101 to R106). What the cycle then
does with the class is IDSTEP's (R108). -/

namespace Sys2Proof.Machine

/-- Row ID_C: `Match(C)` (R101). -/
def execIdC (f : Frame) (s : State) : Result := .next (latchRow f (.matched .c) s)
/-- Row ID_B0: `Match(B)` (R102). -/
def execIdB0 (f : Frame) (s : State) : Result := .next (latchRow f (.matched .b) s)
/-- Row ID_BESC, the escape pattern: `Match(B)` (R103). -/
def execIdBesc (f : Frame) (s : State) : Result := .next (latchRow f (.matched .b) s)
/-- Row ID_A: `Match(A)` (R104). -/
def execIdA (f : Frame) (s : State) : Result := .next (latchRow f (.matched .a) s)
/-- Row NM_192: `NoMatch` (R105, R81). -/
def execNm192 (f : Frame) (s : State) : Result := .next (latchRow f .noMatch s)
/-- Row NM_160: `NoMatch` (R105). -/
def execNm160 (f : Frame) (s : State) : Result := .next (latchRow f .noMatch s)
/-- Row NM_32: `NoMatch` (R105, R82). -/
def execNm32 (f : Frame) (s : State) : Result := .next (latchRow f .noMatch s)
/-- Row ABSENT: `Absent` (R106). -/
def execAbsent (f : Frame) (s : State) : Result := .next (latchRow f .absent s)

end Sys2Proof.Machine
end

