-- ==== Sys2Proof/Machine/FrameReader.lean ====
section
/-! DEFINITION. The frame reader: RDFRAME, INVERT, OBSERVE (40_frame_reader.md R90 to R94). -/

namespace Sys2Proof.Machine

/-- RDFRAME: `RAW <- read_frame()`, five bytes of the bus under no law; it always succeeds (R90, R16). -/
def execRdframe (s : State) : Result :=
  .next ((consumeFrame s).withLoc { s.loc with raw := nextFrame s })

/-- INVERT: `F[k] <- ~RAW[k]` for k in 0..4 (R91). -/
def execInvert (s : State) : Result := .next (s.withLoc { s.loc with f := s.loc.raw.invert })

/-- OBSERVE: the optional observer writes no state, emits no event and changes no other rule (R94). -/
def execObserve (s : State) : Result := .next s

end Sys2Proof.Machine
end

