-- ==== Sys2Proof/Machine/Identifier.lean ====
section
/-! DEFINITION. The variant identifier: CLASSIFY, IDSTEP, LOADVAR, SKIP (41_variant_identifier.md R100, R108 to R110), and the two
resets: SAFERESET (60_exceptions.md R174) and PORESET (70_reset_and_hazards.md R190). -/

namespace Sys2Proof.Machine

/-- The ordered rule list of R100. -/
def classOf (f : Frame) : FrameClass :=
  if f.header = Config.hdr160 ∧ f.aux5 = 0 then .matched .c
  else if f.header = Config.hdr32 ∧ ((f.aux4 = 0 ∧ f.aux5 = 0) ∨ f.escape) then .matched .b
  else if f.header = Config.hdr32 ∧ f.aux5 = Config.aux5Full then .matched .a
  else if f.recognised then .noMatch
  else .absent

/-- CLASSIFY: the class of the current frame, as the operation's result; pure, whatever `VAR` holds (R100). -/
def execClassify (s : State) : Result := .next (s.withLoc { s.loc with cls := classOf s.loc.f })

/-- SAFERESET (R174). -/
def execSafereset (s : State) : Result := .next (enterSafeState s)

/-- LOADVAR: `VAR <- v`, with the precondition `VAR = Absent`; a held variant does not change to another (R109, R22). -/
def execLoadvar (v : Variant) (s : State) : Result :=
  if s.var = .absent then .next (holdVariant v s) else .fault .variantAlreadyHeld

/-- SKIP: nothing (R110). -/
def execSkip (s : State) : Result := .next s

/-- The path of the cycle, IDSTEP's result. -/
def takePath (p : Path) (s : State) : State := s.withLoc { s.loc with path := p }

/-- IDSTEP: act on the class (R108). -/
def execIdstep (s : State) : Result :=
  match s.loc.cls with
  | .absent =>
    andThen (if s.safe then .next s else execSafereset s)
      fun t => .next (takePath .absentPath (t.withVar .absent))
  | .noMatch => .next (takePath .skip s)
  | .matched v =>
    andThen (if s.var = .absent then execLoadvar v s else .next s)
      fun t => .next (takePath (if t.var = .held v then .diff else .skip) t)

/-- PORESET: every register to its value of R33, no event; what stands outside the decoder and the constant configuration are
not its to change (R190, R32; log 7). -/
def execPoreset (s : State) : Result :=
  .next { State.reset with
    hat := s.params.hatCentered, rom := s.rom, params := s.params, bus := s.bus, draws := s.draws, sink := s.sink }

end Sys2Proof.Machine
end

