-- ==== Sys2Proof/Machine/SinkCalls.lean ====
section
/-! DEFINITION. The calls on the sink and the wait (45_poll_cycle_and_sink.md R156 to R161). -/

namespace Sys2Proof.Machine

/-- PRESS: `BTN[b]` is 1 and the event is `Press(b)` (R156; the table's row: "BTN[b] = 1, event press(b)"; log 9). -/
def execPress (b : Fin 21) (s : State) : Result := .next (setButton b true s)

/-- RELEASE: `BTN[b]` is 0 and the event is `Release(b)` (R157; log 9). -/
def execRelease (b : Fin 21) (s : State) : Result := .next (setButton b false s)

/-- SETHAT: `HAT` is the value's canonical code and the event is `SetHat(c)` (R158; log 9). -/
def execSethat (v : HatVal) (s : State) : Result := .next (setHatCode (v.code s.params) s)

/-- FLUSH: the event `Flush`; none of the decoder's state is written (R159). -/
def execFlush (s : State) : Result := .next (emit .flush s)

/-- BACKOFF: a wait; it writes no state and emits no event, and the model has no time (R161). -/
def execBackoff (s : State) : Result := .next s

end Sys2Proof.Machine
end

