-- ==== Sys2Proof/Machine/Poll.lean ====
section
/-! DEFINITION. POLL, the whole cycle (45_poll_cycle_and_sink.md R155). -/

namespace Sys2Proof.Machine

/-- `RAW <- RDFRAME; F <- INVERT(RAW)` on an empty event list, with the optional observer beside it (R155). -/
def readFrame (s : State) : Result :=
  andThen (execRdframe (s.withEvents [])) fun t => andThen (execInvert t) execObserve

/-- The rest of the cycle on the path IDSTEP chose (R155). -/
def runPath (s : State) : Result :=
  match s.loc.path with
  | .diff => andThen (execScan s) fun t => andThen (execSynb t) fun u => andThen (execCommit u) execFlush
  | .skip => execSkip s
  | .absentPath => execBackoff s

/-- What follows CLASSIFY: IDSTEP and the path (R155). -/
def actOnClass (s : State) : Result := andThen (execIdstep s) runPath

/-- POLL: one whole cycle on a well-formed configuration; an ill-formed one is refused before anything else (R155, R122). -/
def execPoll (s : State) : Result :=
  if s.configOk then andThen (readFrame s) fun t => andThen (execClassify t) actOnClass
  else .refused .illFormedConfig

end Sys2Proof.Machine
end

