-- ==== Sys2Proof/Machine/Dispatch.lean ====
section
/-! DEFINITION. The dispatch: one arm per constructor of Instr, each one direct call of its meaning. -/

namespace Sys2Proof.Machine

def exec (i : Instr) (s : State) : Host.Outcome State Fault Refusal :=
  match i with
  | .idC f => Sys2Proof.Machine.execIdC f s
  | .idB0 f => Sys2Proof.Machine.execIdB0 f s
  | .idBesc f => Sys2Proof.Machine.execIdBesc f s
  | .idA f => Sys2Proof.Machine.execIdA f s
  | .nm192 f => Sys2Proof.Machine.execNm192 f s
  | .nm160 f => Sys2Proof.Machine.execNm160 f s
  | .nm32 f => Sys2Proof.Machine.execNm32 f s
  | .absent f => Sys2Proof.Machine.execAbsent f s
  | .entryUnmapped => Sys2Proof.Machine.execEntryUnmapped s
  | .entryButton0 => Sys2Proof.Machine.execEntryButton0 s
  | .entryButton1 => Sys2Proof.Machine.execEntryButton1 s
  | .entryButton2 => Sys2Proof.Machine.execEntryButton2 s
  | .entryButton3 => Sys2Proof.Machine.execEntryButton3 s
  | .entryButton4 => Sys2Proof.Machine.execEntryButton4 s
  | .entryButton5 => Sys2Proof.Machine.execEntryButton5 s
  | .entryButton6 => Sys2Proof.Machine.execEntryButton6 s
  | .entryButton7 => Sys2Proof.Machine.execEntryButton7 s
  | .entryButton8 => Sys2Proof.Machine.execEntryButton8 s
  | .entryButton9 => Sys2Proof.Machine.execEntryButton9 s
  | .entryButton10 => Sys2Proof.Machine.execEntryButton10 s
  | .entryButton11 => Sys2Proof.Machine.execEntryButton11 s
  | .entryButton12 => Sys2Proof.Machine.execEntryButton12 s
  | .entryButton13 => Sys2Proof.Machine.execEntryButton13 s
  | .entryButton14 => Sys2Proof.Machine.execEntryButton14 s
  | .entryButton15 => Sys2Proof.Machine.execEntryButton15 s
  | .entryButton16 => Sys2Proof.Machine.execEntryButton16 s
  | .entryButton17 => Sys2Proof.Machine.execEntryButton17 s
  | .entryButton18 => Sys2Proof.Machine.execEntryButton18 s
  | .entryButton19 => Sys2Proof.Machine.execEntryButton19 s
  | .entryButton20 => Sys2Proof.Machine.execEntryButton20 s
  | .entryHatUp => Sys2Proof.Machine.execEntryHatUp s
  | .entryHatDown => Sys2Proof.Machine.execEntryHatDown s
  | .entryHatLeft => Sys2Proof.Machine.execEntryHatLeft s
  | .entryHatRight => Sys2Proof.Machine.execEntryHatRight s
  | .entryIllegal v => Sys2Proof.Machine.execEntryIllegal v s
  | .rdframe => Sys2Proof.Machine.execRdframe s
  | .invert => Sys2Proof.Machine.execInvert s
  | .observe => Sys2Proof.Machine.execObserve s
  | .classify => Sys2Proof.Machine.execClassify s
  | .idstep => Sys2Proof.Machine.execIdstep s
  | .loadvar v => Sys2Proof.Machine.execLoadvar v s
  | .skip => Sys2Proof.Machine.execSkip s
  | .lookup k b => Sys2Proof.Machine.execLookup k b s
  | .scan => Sys2Proof.Machine.execScan s
  | .routeBtn b cur => Sys2Proof.Machine.execRouteBtn b cur s
  | .routeHat d cur => Sys2Proof.Machine.execRouteHat d cur s
  | .routeDrop => Sys2Proof.Machine.execRouteDrop s
  | .synb => Sys2Proof.Machine.execSynb s
  | .commit => Sys2Proof.Machine.execCommit s
  | .hatconv d => Sys2Proof.Machine.execHatconv d s
  | .poll => Sys2Proof.Machine.execPoll s
  | .press b => Sys2Proof.Machine.execPress b s
  | .release b => Sys2Proof.Machine.execRelease b s
  | .sethat v => Sys2Proof.Machine.execSethat v s
  | .flush => Sys2Proof.Machine.execFlush s
  | .backoff => Sys2Proof.Machine.execBackoff s
  | .safereset => Sys2Proof.Machine.execSafereset s
  | .poreset => Sys2Proof.Machine.execPoreset s

end Sys2Proof.Machine
end

