-- ==== Sys2Proof/Machine/Step.lean ====
section
/-! DEFINITION. One step of the machine is one poll cycle (00_scope.md R15, R47, 45_poll_cycle_and_sink.md R155): there is no
program counter and no fetch (R28); the "instruction word" of a step is the frame the bus presents, and inside a diff cycle
the table-entry byte that LOOKUP reads. -/

namespace Sys2Proof.Machine

/-- One poll cycle, to its end. -/
def step (s : State) : Host.Outcome State Fault Refusal := exec .poll s

/-- Present a corrected frame on the bus, as the raw bytes that invert to it, before what the bus holds. -/
def State.presentFrame (s : State) (f : Frame) : State := s.withBus (f.invert :: s.bus)

/-- Put an entry byte where the next cycle looks it up: index 0 of table A, with VariantA held and a frame that differs from
`PREV` in that one bit only. -/
def State.presentEntry (s : State) (v : Byte) : State :=
  { (s.presentFrame #v[0x21, 0, 0, 0, 0x0F]) with
    rom := s.rom.provide .a 0 v, var := .held .a, prev := #v[0x20, 0, 0, 0] }

/-- The table row's word stored where the very next step meets it (log 10). A row of fewer than 40 bits is an entry byte. -/
def State.withFetchWord (s : State) (nbits w : Nat) : State :=
  if nbits < 40 then s.presentEntry (BitVec.ofNat 8 w) else s.presentFrame (Frame.ofF40 (BitVec.ofNat 40 w))

end Sys2Proof.Machine
end

