-- ==== Sys2Proof/Safety.lean ====
section
/-! DEFINITION. The terms the statements use: what a change leaves alone, the invariants of 10_state.md R30, R31 and R26, what a
cycle is about to read and what a diff cycle reports, and the observation of a run (00_scope.md R17). -/

namespace Sys2Proof.Machine

/-! ### What is left alone -/

/-- The registers of 10_state.md are as before. -/
def SameRegisters (s t : State) : Prop :=
  t.prev = s.prev ∧ t.var = s.var ∧ t.safe = s.safe ∧ t.synPrev = s.synPrev ∧ t.btn = s.btn ∧ t.hat = s.hat

/-- The constant configuration is as before: every byte of the three tables, and the parameters (R32). -/
def SameConfig (s t : State) : Prop :=
  (∀ v idx, t.tblByte v idx = s.tblByte v idx) ∧ t.rom = s.rom ∧ t.params = s.params

/-- Nothing was read from the bus. -/
def SameInput (s t : State) : Prop := t.bus = s.bus ∧ t.draws = s.draws

/-- No event was emitted and the sink is as before. -/
def SameOutput (s t : State) : Prop := t.events = s.events ∧ t.sink = s.sink

/-- Exactly the event `e` was emitted, and the sink received it (R14, R47). -/
def EmittedOne (e : Event) (s t : State) : Prop := t.events = s.events ++ [e] ∧ t.sink = s.sink.apply e

/-! ### Invariants -/

/-- `PREV = 0`, every button released, the hat centred, `SYNPREV = 0`: the four facts of R30. -/
def State.Clean (s : State) : Prop :=
  s.prev = Vector.replicate 4 0 ∧ s.btn = Vector.replicate 21 false ∧ s.hat = s.params.hatCentered ∧ s.synPrev = false

/-- R30: `SAFE = 1` or `VAR = Absent` implies the four facts; and `SAFE = 1` only while `VAR = Absent` (R108, corner case a). -/
def State.RestInv (s : State) : Prop :=
  (s.safe = true → s.Clean) ∧ (s.var = .absent → s.Clean) ∧ (s.safe = true → s.var = .absent)

/-- `HAT` holds the centred value or one of 1, 3, 5, 7 (R26, R79). -/
def State.HatLegal (s : State) : Prop :=
  s.hat = s.params.hatCentered ∨ s.hat = 1 ∨ s.hat = 3 ∨ s.hat = 5 ∨ s.hat = 7

/-- The sink's report object equals (`BTN`, `HAT`) (R31). -/
def State.Mirrored (s : State) : Prop := s.sink.rep = { rb := s.btn, rh := s.hat }

/-! ### A cycle about to run -/

/-- The corrected frame the next cycle reads. -/
def pollFrame (s : State) : Frame := (nextFrame s).invert

/-- Its class. -/
def pollClass (s : State) : FrameClass := classOf (pollFrame s)

/-- The next cycle is a diff cycle for variant `v`: its class is `Match(v)`, and `v` is held or no variant is (R107). -/
def DiffFor (v : Variant) (s : State) : Prop :=
  pollClass s = .matched v ∧ (s.var = .absent ∨ s.var = .held v)

/-- The next cycle is skipped: no match, or a match of another variant than the held one (R110). -/
def Skipped (s : State) : Prop :=
  pollClass s = .noMatch ∨ ∃ v w, pollClass s = .matched w ∧ s.var = .held v ∧ w ≠ v

/-- The state in which the next cycle meets its frame: RAW and F are written, the event list is empty, the frame is consumed (R155). -/
def fetched (s : State) : State :=
  { s with
    events := [], bus := s.bus.tail, draws := if s.bus = [] then s.draws + 1 else s.draws,
    loc := { s.loc with raw := nextFrame s, f := pollFrame s } }

/-! ### What a diff cycle reports -/

/-- The level of the bit at a position. -/
def levelAt (d : DataBytes) (p : Fin 4 × Fin 8) : Bool := bitOf d[p.1] p.2

/-- The bit at a position differs. -/
def changedAt (d d' : DataBytes) (p : Fin 4 × Fin 8) : Bool := levelAt d p != levelAt d' p

/-- The entry of `v`'s table for a position; none where the byte is illegal. -/
def entryAt (s : State) (v : Variant) (p : Fin 4 × Fin 8) : Option Entry :=
  Entry.ofByte (s.tblByte v (linearIndex p.1 p.2))

/-- The event a changed bit of level `cur` gives under an entry (R131 to R133). -/
def eventOf (ps : Params) (cur : Bool) : Entry → Option Event
  | .unmapped => none
  | .button b => some (if cur then .press b else .release b)
  | .hat d => some (.setHat (if cur then hatconv d else ps.hatCentered))

/-- The events of a scan of `d` against `d'` under `v`'s table, in visiting order (R130, R136). -/
def scanEvents (s : State) (v : Variant) (d d' : DataBytes) : List Event :=
  scanOrder.filterMap fun p =>
    if changedAt d d' p then (entryAt s v p).bind (eventOf s.params (levelAt d p)) else none

/-- The event of the synthetic button, if its condition changed (R134). -/
def synEvents (s : State) (v : Variant) (f : Frame) : List Event :=
  if v = .b ∧ synCondition s.params f ≠ s.synPrev then
    [if synCondition s.params f then .press s.params.synButton else .release s.params.synButton]
  else []

/-- The 23 events of the safe-state reset (R174). -/
def safeResetEvents (ps : Params) : List Event :=
  (List.finRange 21).map Event.release ++ [.setHat ps.hatCentered, .flush]

/-! ### Facts about real tables, and runs -/

/-- What the source fixes about the contents of a real table (R123): the paddles are buttons 1 and 2 in all three, and VariantA's
button 1 is at one of the indices 0..4. To be taken as a hypothesis. -/
def RealTables (s : State) : Prop :=
  (∀ v, ∃ p q, entryAt s v p = some (.button 1) ∧ entryAt s v q = some (.button 2)) ∧
  ∃ i : Fin 8, i.val ≤ 4 ∧ entryAt s .a (0, i) = some (.button 1)

/-- `n` polls: the concatenation of their event lists, and the end state (R17). -/
def observe : Nat → State → Option (List Event × State)
  | 0, s => some ([], s)
  | n + 1, s =>
    match step s with
    | .next t => (observe n t).map fun r => (t.events ++ r.1, r.2)
    | .fault _ => none
    | .refused _ => none

end Sys2Proof.Machine
end

