-- ==== Sys2Proof/Certificates/Slice0/Obligations.lean ====
section
/-! DEFINITION. The statements for the provers. Each docstring names the rule of spec/ it formalises, or the decision (D<n> of
92_eei_decisions.md) or log entry it rests on. -/

open Sys2Proof Sys2Proof.Machine

/-! ### Encodings -/

/-- Words written out from opcode_table.json and 30_encoding.md decode to the rows they stand for. -/
def Obligations.SpecWordsDecode : Prop :=
  decode [0xA0, 0x00, 0x00, 0x00, 0x00] = .ok (.idC #v[0xA0, 0x00, 0x00, 0x00, 0x00]) ∧
  decode [0x20, 0x00, 0x00, 0xFF, 0xFF] = .ok (.idBesc #v[0x20, 0x00, 0x00, 0xFF, 0xFF]) ∧
  decode [0x20, 0x00, 0x00, 0xFE, 0xFF] = .ok (.idA #v[0x20, 0x00, 0x00, 0xFE, 0xFF]) ∧
  decode [0x20, 0x00, 0x00, 0x20, 0x00] = .ok (.nm32 #v[0x20, 0x00, 0x00, 0x20, 0x00]) ∧
  decode [0xE0, 0x00, 0x00, 0x00, 0x00] = .ok (.absent #v[0xE0, 0x00, 0x00, 0x00, 0x00]) ∧
  decode [0x14] = .ok .entryButton20 ∧ decode [0x22] = .ok .entryHatLeft ∧ decode [0x15] = .ok (.entryIllegal 0x15) ∧
  decodeTableWord 40 0x200000000F = some (.idA #v[0x20, 0x00, 0x00, 0x00, 0x0F])

/-- Decode of encode is the instruction, for every well-formed instruction that has an encoding: no bit of a frame or of an entry
byte is dropped. -/
def Obligations.DecodeOfEncodeIsTheInstruction : Prop :=
  ∀ (i : Instr) (bs : List Byte), i.wf = true → encode i = some bs → decode bs = .ok i

/-- The other direction: what decoding answers is well formed and encodes to the bytes it was read from. -/
def Obligations.EncodeOfDecodeIsTheBytes : Prop :=
  ∀ (bs : List Byte) (i : Instr), decode bs = .ok i → i.wf = true ∧ encode i = some bs

/-- One table byte and five frame bytes decode; bytes of any other length are rejected with their length (R44, R85). -/
def Obligations.DecodeRejectsOtherLengths : Prop :=
  ∀ bs : List Byte,
    ((∃ i, decode bs = .ok i) ↔ bs.length = 1 ∨ bs.length = 5) ∧
    (bs.length ≠ 1 → bs.length ≠ 5 → decode bs = .error (.badLength bs.length))

/-- R67: every frame is in exactly one of the eight sets, and the ordered decoder names that set's row. -/
def Obligations.EveryFrameIsInExactlyOneSet : Prop :=
  ∀ f : Frame,
    ([WellFormed.setIdC f, WellFormed.setIdB0 f, WellFormed.setIdBesc f, WellFormed.setIdA f, WellFormed.setNm192 f,
      WellFormed.setNm160 f, WellFormed.setNm32 f, WellFormed.setAbsent f].count true = 1) ∧
    (WellFormed.setIdC f = true → decodeFrame f = .idC f) ∧ (WellFormed.setIdB0 f = true → decodeFrame f = .idB0 f) ∧
    (WellFormed.setIdBesc f = true → decodeFrame f = .idBesc f) ∧ (WellFormed.setIdA f = true → decodeFrame f = .idA f) ∧
    (WellFormed.setNm192 f = true → decodeFrame f = .nm192 f) ∧ (WellFormed.setNm160 f = true → decodeFrame f = .nm160 f) ∧
    (WellFormed.setNm32 f = true → decodeFrame f = .nm32 f) ∧ (WellFormed.setAbsent f = true → decodeFrame f = .absent f)

/-- R66: the first of the eight mask and match rows that a frame meets, in the table's order, gives the class CLASSIFY finds. -/
def Obligations.FirstMatchingPatternGivesTheClass : Prop :=
  ∀ s : State, ∃ t, exec .classify s = .next t ∧
    (([(0xE00000000F, 0xA000000000, .matched .c), (0xE00000200F, 0x2000000000, .matched .b),
       (0xE00000FFFF, 0x200000FFFF, .matched .b), (0xE00000000F, 0x200000000F, .matched .a),
       (0xE000000000, 0xC000000000, .noMatch), (0xE000000000, 0xA000000000, .noMatch),
       (0xE000000000, 0x2000000000, .noMatch), (0x0000000000, 0x0000000000, .absent)] :
        List (BitVec 40 × BitVec 40 × FrameClass)).find? fun r => s.loc.f.f40 &&& r.1 == r.2.1).map (fun r => r.2.2)
      = some t.loc.cls

/-- R61, R62, R63: the values of the three masked fields; and what the escape comparison implies (R64). -/
def Obligations.FieldsTakeTheirValues : Prop :=
  ∀ f : Frame,
    f.header ∈ ([0, 32, 64, 96, 128, 160, 192, 224] : List Byte) ∧
    (f.header = f[0] &&& 0xE0) ∧ (f[0].extractLsb' 5 3).toNat * 32 = f.header.toNat ∧
    (f.aux4 = 0 ∨ f.aux4 = 0x20) ∧ (f.aux4 = 0x20 ↔ f[3].getLsbD 5 = true) ∧
    f.aux5.toNat = f[4].toNat % 16 ∧
    (f.escape = true → f.aux4 = 0x20 ∧ f.aux5 = 15)

/-- R76: the byte of each entry kind, and that reading it back gives the entry (the numbers of the hat tags are decision D13). -/
def Obligations.EntryBytesReadBack : Prop :=
  (∀ e : Entry, Entry.ofByte e.toByte = some e) ∧ Entry.unmapped.toByte = 0xFF ∧
  (∀ b : Fin 21, (Entry.button b).toByte.toNat = b.val) ∧ (∀ d : Dir, (Entry.hat d).toByte.toNat = 32 + d.rawCode) ∧
  (∀ v : Byte, Entry.ofByte v = none ↔ (21 ≤ v.toNat ∧ v.toNat ≤ 31) ∨ (36 ≤ v.toNat ∧ v.toNat ≤ 254))

/-! ### The identification rows and CLASSIFY -/

/-- The result of each pattern row (R101 to R106: "Result Match(C)", ...): the class is latched; the row's frame is the current
frame (log 8); every register, the configuration, the input and the output are as before. -/
def Obligations.PatternRowsLatchTheirClass : Prop :=
  ∀ (f : Frame) (s : State),
    ∀ r ∈ ([(.idC f, .matched .c), (.idB0 f, .matched .b), (.idBesc f, .matched .b), (.idA f, .matched .a), (.nm192 f, .noMatch),
            (.nm160 f, .noMatch), (.nm32 f, .noMatch), (.absent f, .absent)] : List (Instr × FrameClass)),
      ∃ t, exec r.1 s = .next t ∧ t.loc = { s.loc with f := f, cls := r.2 } ∧
        SameRegisters s t ∧ SameConfig s t ∧ SameInput s t ∧ SameOutput s t

/-- R100: the ordered rule list over header, aux4, aux5 and the escape bytes; CLASSIFY writes nothing else and does not look at `VAR`. -/
def Obligations.ClassifyFollowsTheOrderedRules : Prop :=
  ∀ s : State, ∃ t, exec .classify s = .next t ∧
    t.loc = { s.loc with cls :=
      if s.loc.f[0] &&& 0xE0 = 160 ∧ s.loc.f[4] &&& 0x0F = 0 then .matched .c
      else if s.loc.f[0] &&& 0xE0 = 32 ∧
          ((s.loc.f[3] &&& 0x20 = 0 ∧ s.loc.f[4] &&& 0x0F = 0) ∨ (s.loc.f[3] = 0xFF ∧ s.loc.f[4] = 0xFF)) then .matched .b
      else if s.loc.f[0] &&& 0xE0 = 32 ∧ s.loc.f[4] &&& 0x0F = 15 then .matched .a
      else if s.loc.f[0] &&& 0xE0 ∈ ([192, 160, 32] : List Byte) then .noMatch
      else .absent } ∧
    SameRegisters s t ∧ SameConfig s t ∧ SameInput s t ∧ SameOutput s t

/-- R103, R104: with header 32 the escape bytes give `Match(B)` whatever aux4 and aux5 are, and aux5 = 15 without them gives `Match(A)`. -/
def Obligations.EscapeDominatesVariantA : Prop :=
  ∀ s : State, s.loc.f[0] &&& 0xE0 = 32 → ∃ t, exec .classify s = .next t ∧
    (s.loc.f[3] = 0xFF → s.loc.f[4] = 0xFF → t.loc.cls = .matched .b) ∧
    (s.loc.f[4] &&& 0x0F = 15 → ¬ (s.loc.f[3] = 0xFF ∧ s.loc.f[4] = 0xFF) → t.loc.cls = .matched .a)

/-- R106: the class is Absent exactly when the header is none of 192, 160, 32, that is 0, 64, 96, 128 or 224; all other bits are ignored. -/
def Obligations.AbsenceIsDecidedByTheHeaderAlone : Prop :=
  ∀ s : State, ∃ t, exec .classify s = .next t ∧
    (t.loc.cls = .absent ↔ s.loc.f[0] &&& 0xE0 ∉ ([192, 160, 32] : List Byte)) ∧
    (t.loc.cls = .absent ↔ s.loc.f[0] &&& 0xE0 ∈ ([0, 64, 96, 128, 224] : List Byte))

/-- R68: the identification conditions on the raw bytes (an inference the spec marks as its own, from R66 and R91). -/
def Obligations.RawBytesOfTheConditions : Prop :=
  ∀ r : Frame,
    (r.invert.header = 192 ↔ r[0] &&& 0xE0 = 0x20) ∧ (r.invert.header = 160 ↔ r[0] &&& 0xE0 = 0x40) ∧
    (r.invert.header = 32 ↔ r[0] &&& 0xE0 = 0xC0) ∧ (r.invert.aux5 = 0 ↔ r[4] &&& 0x0F = 0x0F) ∧
    (r.invert.aux5 = 15 ↔ r[4] &&& 0x0F = 0) ∧ (r.invert.aux4 = 0 ↔ r[3] &&& 0x20 = 0x20) ∧
    (r.invert.escape = true ↔ r[3] = 0 ∧ r[4] = 0)

/-! ### The frame reader -/

/-- RDFRAME: the next frame presented on the bus, else a free frame (log 3), is latched as RAW and consumed; no register, no
table byte and no output changes. -/
def Obligations.RdframeTakesTheNextFrame : Prop :=
  ∀ s : State, ∃ t, exec .rdframe s = .next t ∧
    (∀ r rest, s.bus = r :: rest → t.loc = { s.loc with raw := r } ∧ t.bus = rest ∧ t.draws = s.draws) ∧
    (s.bus = [] → t.loc = { s.loc with raw := Config.busFrame s.draws } ∧ t.bus = [] ∧ t.draws = s.draws + 1) ∧
    SameRegisters s t ∧ SameConfig s t ∧ SameOutput s t

/-- R91: `F[k] = ~RAW[k] = 255 - RAW[k] = RAW[k] ^ 0xFF` for all five bytes, only `F` is written, and inverting twice is the identity. -/
def Obligations.InvertComplementsEveryByte : Prop :=
  (∀ s : State, ∃ t, exec .invert s = .next t ∧
    (∀ k : Fin 5, t.loc.f[k] = ~~~ s.loc.raw[k] ∧ t.loc.f[k].toNat = 255 - s.loc.raw[k].toNat ∧ t.loc.f[k] = s.loc.raw[k] ^^^ 0xFF) ∧
    t.loc = { s.loc with f := t.loc.f } ∧ SameRegisters s t ∧ SameConfig s t ∧ SameInput s t ∧ SameOutput s t) ∧
  (∀ r : Frame, r.invert.invert = r)

/-- The operations with no effect: OBSERVE (R94, decision D19), SKIP (R110), ROUTE_DROP (R133), BACKOFF (R161). That a skip
writes nothing and does not flush is decisions D6 and D11, and that BACKOFF takes no time is D18. -/
def Obligations.OperationsWithoutEffectComplete : Prop :=
  ∀ s : State, exec .observe s = .next s ∧ exec .skip s = .next s ∧ exec .routeDrop s = .next s ∧ exec .backoff s = .next s

/-! ### The calls on the sink and the hat encoder -/

/-- PRESS and RELEASE: `BTN[b]` becomes 1 or 0 (the opcode table's rows; log 9), every other button is as before, the one event is
emitted, and the reference sink's report follows (R156, R157, R160, decision D15). -/
def Obligations.PressAndReleaseSetOneButton : Prop :=
  ∀ (b : Fin 21) (s : State),
    ∀ r ∈ ([(.press b, true, .press b), (.release b, false, .release b)] : List (Instr × Bool × Event)),
      ∃ t, exec r.1 s = .next t ∧ t.btn[b] = r.2.1 ∧ (∀ c : Fin 21, c ≠ b → t.btn[c] = s.btn[c]) ∧
        EmittedOne r.2.2 s t ∧ t.sink.rep.rb[b] = r.2.1 ∧ (∀ c : Fin 21, c ≠ b → t.sink.rep.rb[c] = s.sink.rep.rb[c]) ∧
        t.sink.rep.rh = s.sink.rep.rh ∧ t.sink.sent = s.sink.sent ∧
        t.prev = s.prev ∧ t.var = s.var ∧ t.safe = s.safe ∧ t.synPrev = s.synPrev ∧ t.hat = s.hat ∧
        t.loc = s.loc ∧ SameConfig s t ∧ SameInput s t

/-- SETHAT: `HAT` is the value's canonical code (log 9), the one event carries it, and the reference sink stores it (R158,
R160, decision D15). -/
def Obligations.SethatStoresTheCanonicalCode : Prop :=
  ∀ s : State,
    ∀ r ∈ ([(.sethat .centered, s.params.hatCentered), (.sethat (.dir .up), 1), (.sethat (.dir .down), 3),
            (.sethat (.dir .left), 5), (.sethat (.dir .right), 7)] : List (Instr × HatCode)),
      ∃ t, exec r.1 s = .next t ∧ t.hat = r.2 ∧ EmittedOne (.setHat r.2) s t ∧ t.sink.rep = { s.sink.rep with rh := r.2 } ∧
        t.sink.sent = s.sink.sent ∧ t.prev = s.prev ∧ t.var = s.var ∧ t.safe = s.safe ∧ t.synPrev = s.synPrev ∧ t.btn = s.btn ∧
        t.loc = s.loc ∧ SameConfig s t ∧ SameInput s t

/-- FLUSH: the event is emitted, a copy of the report object is appended to what was sent, and nothing of the decoder is written (R159,
R160; the reference sink is decision D15, where a flush stands is D11). -/
def Obligations.FlushSendsTheReportOnce : Prop :=
  ∀ s : State, ∃ t, exec .flush s = .next t ∧ EmittedOne .flush s t ∧ t.sink.rep = s.sink.rep ∧
    t.sink.sent = s.sink.sent ++ [s.sink.rep] ∧ SameRegisters s t ∧ t.loc = s.loc ∧ SameConfig s t ∧ SameInput s t

/-- R150's four pairs: Up 1, Down 3, Left 5, Right 7, on the raw codes of R78; no register is written. That the code is `2*r + 1`
of the raw code `r` is an inference R150 marks as its own ("derived: from the table; the source gives the four pairs, not the formula"). -/
def Obligations.HatconvFollowsTheTable : Prop :=
  ∀ s : State,
    ∀ r ∈ ([(.up, 0, 1), (.down, 1, 3), (.left, 2, 5), (.right, 3, 7)] : List (Dir × Nat × HatCode)),
      ∃ t, exec (.hatconv r.1) s = .next t ∧ t.loc = { s.loc with code := r.2.2 } ∧ r.1.rawCode = r.2.1 ∧
        r.2.2.toNat = 2 * r.1.rawCode + 1 ∧ SameRegisters s t ∧ SameConfig s t ∧ SameInput s t ∧ SameOutput s t

/-! ### LOOKUP and the tables -/

/-- R121: with `VAR = v` the entry of `TABLE_v` at `byteIndex*8 + bitIndex` is the result, and nothing else changes. -/
def Obligations.LookupReadsTheHeldTable : Prop :=
  ∀ (s : State) (v : Variant) (k : Fin 4) (i : Fin 8) (e : Entry),
    s.var = .held v → Entry.ofByte (s.tblByte v (linearIndex k i)) = some e →
    ∃ t, exec (.lookup k i) s = .next t ∧ t.loc = { s.loc with entry := e } ∧
      SameRegisters s t ∧ SameConfig s t ∧ SameInput s t ∧ SameOutput s t

/-- Where LOOKUP stops. With no variant held it faults: the model's choice (log 12, DEDUCED), since the spec only says that there is
no table for Absent (R40) and that LOOKUP is not called then (R121, R51). With one held, an illegal entry is refused (R77, decision D13);
that LOOKUP run on its own refuses it is log 13's. -/
def Obligations.LookupStopsWithoutATableOrEntry : Prop :=
  ∀ (s : State) (k : Fin 4) (i : Fin 8),
    (s.var = .absent → exec (.lookup k i) s = .fault .noTableForAbsent) ∧
    (∀ v, s.var = .held v → Entry.ofByte (s.tblByte v (linearIndex k i)) = none →
      exec (.lookup k i) s = .refused .illFormedConfig)

/-- The 96 pairs (variant, index) are 96 different addresses that fill the table space (R40, R46; the numbering is log 4), and
providing one entry changes that entry alone and keeps the canonical form (log 5). -/
def Obligations.ProvidedEntryReadsBackAlone : Prop :=
  (∀ a : Nat, a < Memory.size ↔ ∃ v idx, tableAddr v idx = a) ∧
  ∀ (m : Memory) (v w : Variant) (i j : Fin 32) (byte : Byte), m.wf = true →
    (m.provide v i byte).wf = true ∧ (m.provide v i byte).read (tableAddr v i) = byte ∧
    ((w, j) ≠ (v, i) → (m.provide v i byte).read (tableAddr w j) = m.read (tableAddr w j))

/-- R32, R50, R202: no instruction writes the tables or the parameters. -/
def Obligations.NoInstructionWritesTheConfiguration : Prop :=
  ∀ (i : Instr) (s t : State), exec i s = .next t → SameConfig s t

/-! ### The change detector -/

/-- R131: `BTN[b] <- cur` and one event for the bit's change, whatever `BTN[b]` held; every other button and register is as before. -/
def Obligations.RouteBtnWritesItsButton : Prop :=
  ∀ (b : Fin 21) (cur : Bool) (s : State), ∃ t, exec (.routeBtn b cur) s = .next t ∧
    t.btn[b] = cur ∧ (∀ c : Fin 21, c ≠ b → t.btn[c] = s.btn[c]) ∧ EmittedOne (if cur then .press b else .release b) s t ∧
    t.prev = s.prev ∧ t.var = s.var ∧ t.safe = s.safe ∧ t.synPrev = s.synPrev ∧ t.hat = s.hat ∧ t.loc = s.loc ∧
    SameConfig s t ∧ SameInput s t

/-- R132: an active bit sets the direction's code, an inactive one centres the hat regardless of the direction; one event carries
the code, and every other register is as before. -/
def Obligations.RouteHatSetsOrCentres : Prop :=
  ∀ s : State,
    ∀ r ∈ ([(.up, 1), (.down, 3), (.left, 5), (.right, 7)] : List (Dir × HatCode)), ∀ cur : Bool,
      ∃ t, exec (.routeHat r.1 cur) s = .next t ∧ t.hat = (if cur then r.2 else s.params.hatCentered) ∧
        EmittedOne (.setHat t.hat) s t ∧ t.loc = { s.loc with code := t.hat } ∧
        t.prev = s.prev ∧ t.var = s.var ∧ t.safe = s.safe ∧ t.synPrev = s.synPrev ∧ t.btn = s.btn ∧
        SameConfig s t ∧ SameInput s t

/-- The entry rows for a button and for "unmapped", run as instructions. That such a row acts on the level of the bit at the scan
position, changed or not, is the model's choice (log 11, DESIGN CHOICE); what it then does is R131's (the button is set or cleared) or
R133's (dropped), the row's byte being R76's. -/
def Obligations.ButtonEntryRowsRouteTheScannedBit : Prop :=
  ∀ s : State,
    exec .entryUnmapped s = .next s ∧
    ∀ r ∈ ([(.entryButton0, 0), (.entryButton1, 1), (.entryButton2, 2), (.entryButton3, 3), (.entryButton4, 4),
            (.entryButton5, 5), (.entryButton6, 6), (.entryButton7, 7), (.entryButton8, 8), (.entryButton9, 9),
            (.entryButton10, 10), (.entryButton11, 11), (.entryButton12, 12), (.entryButton13, 13), (.entryButton14, 14),
            (.entryButton15, 15), (.entryButton16, 16), (.entryButton17, 17), (.entryButton18, 18), (.entryButton19, 19),
            (.entryButton20, 20)] : List (Instr × Fin 21)),
      ∃ t, exec r.1 s = .next t ∧ t.btn[r.2] = levelAt s.loc.f.data (s.loc.byteIndex, s.loc.bitIndex) ∧
        (∀ c : Fin 21, c ≠ r.2 → t.btn[c] = s.btn[c]) ∧
        EmittedOne (if levelAt s.loc.f.data (s.loc.byteIndex, s.loc.bitIndex) then .press r.2 else .release r.2) s t ∧
        t.prev = s.prev ∧ t.var = s.var ∧ t.safe = s.safe ∧ t.synPrev = s.synPrev ∧ t.hat = s.hat ∧ t.loc = s.loc ∧
        SameConfig s t ∧ SameInput s t

/-- The entry rows for the hat tags, run as instructions. That such a row acts on the level of the bit at the scan position, changed
or not, is the model's choice (log 11, DESIGN CHOICE); that an active bit sets the tag's code and an inactive one centres the hat is R132's. -/
def Obligations.HatEntryRowsRouteTheScannedBit : Prop :=
  ∀ s : State,
    ∀ r ∈ ([(.entryHatUp, 1), (.entryHatDown, 3), (.entryHatLeft, 5), (.entryHatRight, 7)] : List (Instr × HatCode)),
      ∃ t, exec r.1 s = .next t ∧
        t.hat = (if levelAt s.loc.f.data (s.loc.byteIndex, s.loc.bitIndex) then r.2 else s.params.hatCentered) ∧
        EmittedOne (.setHat t.hat) s t ∧ t.loc = { s.loc with code := t.hat } ∧
        t.prev = s.prev ∧ t.var = s.var ∧ t.safe = s.safe ∧ t.synPrev = s.synPrev ∧ t.btn = s.btn ∧
        SameConfig s t ∧ SameInput s t

/-- A table that holds a byte in 21..31 or 36..254 is an ill-formed configuration, which a model refuses (R77, R122; decision D13), and
so is the illegal row itself. R122 has the configuration checked once: that each poll itself makes the check, and so refuses the table,
is the model's choice (log 13, DESIGN CHOICE). -/
def Obligations.IllegalEntriesAreRefused : Prop :=
  ∀ s : State,
    (∀ v : Byte, exec (.entryIllegal v) s = .refused .illFormedConfig) ∧
    (∀ v idx, (21 ≤ (s.tblByte v idx).toNat ∧ (s.tblByte v idx).toNat ≤ 31) ∨
        (36 ≤ (s.tblByte v idx).toNat ∧ (s.tblByte v idx).toNat ≤ 254) →
      step s = .refused .illFormedConfig)

/-- Inside a scan, a changed bit runs the instruction its table byte decodes to; an unchanged bit produces nothing (R130). -/
def Obligations.ScanVisitRunsTheDecodedEntry : Prop :=
  ∀ (s : State) (v : Variant) (p : Fin 4 × Fin 8) (e : Entry), s.var = .held v → entryAt s v p = some e →
    visit p s =
      if changedAt s.loc.f.data s.prev p then
        exec (decodeEntry (s.tblByte v (linearIndex p.1 p.2)))
          (s.withLoc { s.loc with byteIndex := p.1, bitIndex := p.2, entry := e })
      else .next (s.withLoc { s.loc with byteIndex := p.1, bitIndex := p.2 })

/-- R130, R136: SCAN reports each changed mapped bit once, in the order 7..0, 15..8, 23..16, 31..24, and nothing for an unchanged
or unmapped one (R130, R133); `PREV` and every register but `BTN` and `HAT` are as before (R130). The clause on the sink rests on the
reference sink of R160, which is decision D15 (log 14). -/
def Obligations.ScanReportsChangesInVisitingOrder : Prop :=
  (scanOrder.map fun p => (linearIndex p.1 p.2).val) =
    [7, 6, 5, 4, 3, 2, 1, 0, 15, 14, 13, 12, 11, 10, 9, 8] ++ [23, 22, 21, 20, 19, 18, 17, 16, 31, 30, 29, 28, 27, 26, 25, 24] ∧
  ∀ (s : State) (v : Variant), s.var = .held v → (∀ p, (entryAt s v p).isSome = true) →
    ∃ t, exec .scan s = .next t ∧ t.events = s.events ++ scanEvents s v s.loc.f.data s.prev ∧
      t.sink = (scanEvents s v s.loc.f.data s.prev).foldl Sink.apply s.sink ∧
      t.prev = s.prev ∧ t.var = s.var ∧ t.safe = s.safe ∧ t.synPrev = s.synPrev ∧
      t.loc.f = s.loc.f ∧ t.loc.raw = s.loc.raw ∧ t.loc.cls = s.loc.cls ∧ t.loc.path = s.loc.path ∧
      SameConfig s t ∧ SameInput s t

/-- R139, R132 (b): after SCAN a button is the level of the last visited changed bit that maps to it, and is untouched if none
changed; the hat is what the last visited changed hat bit set (the spec derives R139 from R130 and R131). -/
def Obligations.ScanLastVisitDecides : Prop :=
  ∀ (s t : State) (v : Variant), s.var = .held v → exec .scan s = .next t →
    (∀ b : Fin 21, t.btn[b] =
      ((scanOrder.filter fun p => changedAt s.loc.f.data s.prev p && (entryAt s v p == some (.button b))).getLast?.elim s.btn[b]
        (levelAt s.loc.f.data))) ∧
    (t.hat =
      ((scanOrder.filterMap fun p =>
          match entryAt s v p with
          | some (.hat d) =>
            if changedAt s.loc.f.data s.prev p then
              some (if levelAt s.loc.f.data p then hatconv d else s.params.hatCentered)
            else none
          | _ => none).getLast?.getD s.hat))

/-- SYNB (decision D12): only with `VAR = B` and only when the condition differs from `SYNPREV` are `BTN[SYN_BUTTON]` and
`SYNPREV` written, with one event; otherwise nothing. -/
def Obligations.SynbFollowsTheCondition : Prop :=
  ∀ (s : State) (syn : Bool),
    syn = (s.loc.f.data[s.params.synFlagByte].getLsbD s.params.synFlagBit &&
      (s.loc.f.data[s.params.synGuardByte] &&& (if s.params.synGuard = .low then 0x0F else 0xF0) == 0)) →
    (s.var = .held .b → syn ≠ s.synPrev → ∃ t, exec .synb s = .next t ∧ t.synPrev = syn ∧ t.btn[s.params.synButton] = syn ∧
      (∀ c : Fin 21, c ≠ s.params.synButton → t.btn[c] = s.btn[c]) ∧
      EmittedOne (if syn then .press s.params.synButton else .release s.params.synButton) s t ∧
      t.prev = s.prev ∧ t.var = s.var ∧ t.safe = s.safe ∧ t.hat = s.hat ∧ t.loc = s.loc ∧ SameConfig s t ∧ SameInput s t) ∧
    (s.var ≠ .held .b ∨ syn = s.synPrev → exec .synb s = .next s)

/-- COMMIT (R135; the clearing of `SAFE` is decision D8, what `PREV` then means is D10): the four data bytes become `PREV`, `SAFE` is 0, nothing else changes. -/
def Obligations.CommitStoresTheFrame : Prop :=
  ∀ s : State, ∃ t, exec .commit s = .next t ∧
    t.prev[0] = s.loc.f[0] ∧ t.prev[1] = s.loc.f[1] ∧ t.prev[2] = s.loc.f[2] ∧ t.prev[3] = s.loc.f[3] ∧ t.safe = false ∧
    t.var = s.var ∧ t.synPrev = s.synPrev ∧ t.btn = s.btn ∧ t.hat = s.hat ∧ t.loc = s.loc ∧
    SameConfig s t ∧ SameInput s t ∧ SameOutput s t

/-! ### IDSTEP, LOADVAR and the resets -/

/-- LOADVAR (R109): from `VAR = Absent` it holds the variant and writes nothing else. The spec gives it the precondition `VAR = Absent`
(R109) and says that a held variant is not replaced (R22); that LOADVAR then ends in the fault `variantAlreadyHeld` is the model's
choice (log 12, DEDUCED). -/
def Obligations.LoadvarHoldsAVariantOnlyFromAbsent : Prop :=
  ∀ (v : Variant) (s : State),
    (s.var = .absent → ∃ t, exec (.loadvar v) s = .next t ∧ t.var = .held v ∧ t.prev = s.prev ∧ t.safe = s.safe ∧
      t.synPrev = s.synPrev ∧ t.btn = s.btn ∧ t.hat = s.hat ∧ t.loc = s.loc ∧ SameConfig s t ∧ SameInput s t ∧ SameOutput s t) ∧
    (s.var ≠ .absent → exec (.loadvar v) s = .fault .variantAlreadyHeld)

/-- IDSTEP (R108; decisions D5 to D8): the absent path resets when `SAFE = 0` and leaves no variant held; NoMatch skips; a match
holds the variant if none is held, and diffs exactly when it is the held one. -/
def Obligations.IdstepChoosesThePath : Prop :=
  ∀ s : State, ∃ t, exec .idstep s = .next t ∧ SameConfig s t ∧ SameInput s t ∧
    (s.loc.cls = .absent → t.var = .absent ∧ t.loc = { s.loc with path := .absentPath } ∧
      (s.safe = true → t.prev = s.prev ∧ t.safe = true ∧ t.synPrev = s.synPrev ∧ t.btn = s.btn ∧ t.hat = s.hat ∧ SameOutput s t) ∧
      (s.safe = false → t.Clean ∧ t.safe = true ∧ t.events = s.events ++ safeResetEvents s.params ∧
        t.sink = (safeResetEvents s.params).foldl Sink.apply s.sink)) ∧
    (s.loc.cls = .noMatch → t = s.withLoc { s.loc with path := .skip }) ∧
    (∀ v, s.loc.cls = .matched v →
      (s.var = .absent → t = (s.withVar (.held v)).withLoc { s.loc with path := .diff }) ∧
      (s.var = .held v → t = s.withLoc { s.loc with path := .diff }) ∧
      (∀ w, s.var = .held w → w ≠ v → t = s.withLoc { s.loc with path := .skip }))

/-- SAFERESET (R174; the events, their order and the clearing of `PREV` and `SYNPREV` are decision D7, `SAFE` is
D8): 23 events, every button
released, the hat centred, `PREV` and `SYNPREV` cleared, `SAFE` set; `VAR` is the caller's. -/
def Obligations.SaferesetForcesTheSafeState : Prop :=
  ∀ s : State, ∃ t, exec .safereset s = .next t ∧
    (∀ b : Fin 21, t.btn[b] = false) ∧ t.hat = s.params.hatCentered ∧ (∀ k : Fin 4, t.prev[k] = 0) ∧ t.synPrev = false ∧
    t.safe = true ∧
    t.events = s.events ++ (([0, 1, 2, 3, 4, 5, 6, 7, 8, 9, 10, 11, 12, 13, 14, 15, 16, 17, 18, 19, 20] : List (Fin 21)).map
      Event.release ++ [.setHat s.params.hatCentered, .flush]) ∧
    t.var = s.var ∧ t.loc = s.loc ∧ SameConfig s t ∧ SameInput s t

/-- After a safe-state reset the report object is the released state and was sent once, whatever the sink held before (R192 b;
decision D7; the reference sink is D15). -/
def Obligations.SaferesetSynchronisesTheSink : Prop :=
  ∀ s : State, ∃ t, exec .safereset s = .next t ∧ t.Mirrored ∧
    t.sink.sent = s.sink.sent ++ [{ rb := Vector.replicate 21 false, rh := s.params.hatCentered }]

/-- PORESET (R190, R33; every value but `VAR` is decision D9): each register at its reset value, and no event is emitted. That the event
list is then empty, and that the tables, the parameters, the bus and the sink's report are left as they are, is the model's choice
(log 7, DEDUCED from R32 and R162, which put them outside what the decoder writes). -/
def Obligations.PoresetRestoresTheResetValues : Prop :=
  ∀ s : State, ∃ t, exec .poreset s = .next t ∧
    t.var = .absent ∧ t.safe = false ∧ (∀ k : Fin 4, t.prev[k] = 0) ∧ t.synPrev = false ∧ (∀ b : Fin 21, t.btn[b] = false) ∧
    t.hat = s.params.hatCentered ∧ t.events = [] ∧ t.sink = s.sink ∧ SameConfig s t ∧ SameInput s t

/-- The machine right after power-on (R33, R8; decisions D4, D9): the reset values, `HAT_CENTERED = 0`; and a configuration that
is well formed, which is the model's choice of reset tables and synthetic-button numbers (log 5, log 6). -/
def Obligations.ResetStateHoldsTheResetValues : Prop :=
  State.reset.var = .absent ∧ State.reset.safe = false ∧ State.reset.prev = Vector.replicate 4 0 ∧ State.reset.synPrev = false ∧
  State.reset.btn = Vector.replicate 21 false ∧ State.reset.hat = State.reset.params.hatCentered ∧
  State.reset.params.hatCentered = 0 ∧ State.reset.events = [] ∧ State.reset.configOk = true

/-! ### The poll cycle -/

/-- POLL is the spec's sequence of operations (R155; its input is decision D3, OBSERVE's place D19): read, invert, observe, classify, act on the class, then the path's operations. -/
def Obligations.PollSequencesTheOperations : Prop :=
  ∀ s : State, s.configOk = true →
    step s =
      andThen (exec .rdframe (s.withEvents [])) fun s1 => andThen (exec .invert s1) fun s2 => andThen (exec .observe s2) fun s3 =>
      andThen (exec .classify s3) fun s4 => andThen (exec .idstep s4) fun s5 =>
        match s5.loc.path with
        | .diff => andThen (exec .scan s5) fun s6 => andThen (exec .synb s6) fun s7 => andThen (exec .commit s7) fun s8 => exec .flush s8
        | .skip => exec .skip s5
        | .absentPath => exec .backoff s5

/-- A step runs the decoded instruction (R155, R100). The spec has no fetch (R28): that an identification row is an instruction which the
frame decodes to, and which carries that frame, is the model's choice (log 8, log 10). When the corrected bytes of the next frame decode to `i`, the step is exec of `i` in the
state that has read the frame, then IDSTEP and the path. -/
def Obligations.StepRunsTheDecodedFrame : Prop :=
  ∀ (s : State) (i : Instr), s.configOk = true → decode (pollFrame s).toList = .ok i →
    step s = andThen (exec i (fetched s)) actOnClass

/-- How a word is presented to the next step is the model's choice (log 10, DESIGN CHOICE; the spec has no fetch, R28). A 40-bit table
word placed by withFetchWord is the frame the very next step decodes and runs. A shorter word is an entry byte: it decodes to its row
(log 22), and the very next step meets that entry as an active bit, emits its event (R130 to R132) and the flush, or, where the byte is
illegal, is refused (R77; by the poll itself, log 13). -/
def Obligations.FetchWordIsTheNextFrame : Prop :=
  (∀ (s : State) (w : Nat), s.configOk = true →
    ∃ i, decodeTableWord 40 w = some i ∧
      step (s.withFetchWord 40 w) = andThen (exec i (fetched (s.withFetchWord 40 w))) actOnClass) ∧
  (∀ (s : State) (nbits w : Nat), s.configOk = true → s.rom.wf = true → 0 < nbits → nbits < 40 →
    decodeTableWord nbits w = some (decodeEntry (BitVec.ofNat 8 w)) ∧
    (∀ e, Entry.ofByte (BitVec.ofNat 8 w) = some e →
      ∃ t, step (s.withFetchWord nbits w) = .next t ∧ t.events = (eventOf s.params true e).toList ++ [.flush]) ∧
    (Entry.ofByte (BitVec.ofNat 8 w) = none → step (s.withFetchWord nbits w) = .refused .illFormedConfig))

/-- R18: on a well-formed configuration every poll, whatever the frame, completes; the only thing refused is an ill-formed
configuration, and no step faults. The clauses on `bus` and `draws` are the model's choice of how frames are presented (log 3), and
that each poll itself refuses an ill-formed configuration is log 13's (R122 has it checked once). -/
def Obligations.EveryPollCompletes : Prop :=
  ∀ s : State,
    (s.configOk = true → ∃ t, exec .poll s = .next t ∧ step s = .next t ∧ SameConfig s t ∧
      t.bus = s.bus.tail ∧ t.draws = (if s.bus = [] then s.draws + 1 else s.draws) ∧
      t.loc.raw = nextFrame s ∧ t.loc.f = pollFrame s ∧ t.loc.cls = pollClass s) ∧
    (s.configOk = false → step s = .refused .illFormedConfig) ∧
    (∀ x, step s ≠ .fault x)

/-- R122: a configuration is well formed exactly when all 96 entries are legal and `HAT_CENTERED` is not one of 1..8
(decision D13). That the parameters' ranges hold by their types is the model's choice (log 13). -/
def Obligations.ConfigurationIsOkWhenEveryEntryIsLegal : Prop :=
  ∀ s : State, s.configOk = true ↔
    (∀ v idx, ∃ e, Entry.ofByte (s.tblByte v idx) = some e) ∧ ¬ (1 ≤ s.params.hatCentered.toNat ∧ s.params.hatCentered.toNat ≤ 8)

/-- The transition table of R107 (decisions D5, D6 for the rows the source leaves open): the variant held after each cycle, and
what the cycle emits on the paths that diff nothing. -/
def Obligations.IdentifierTransitions : Prop :=
  ∀ s t : State, step s = .next t →
    (pollClass s = .absent → t.var = .absent ∧
      t.events = (if s.safe then [] else safeResetEvents s.params)) ∧
    (pollClass s = .noMatch → t.var = s.var ∧ t.events = []) ∧
    (∀ v, pollClass s = .matched v →
      (s.var = .absent → t.var = .held v) ∧ (s.var = .held v → t.var = .held v) ∧
      (∀ w, s.var = .held w → w ≠ v → t.var = .held w ∧ t.events = []))

/-- R110 (decisions D6, D11): a skipped cycle writes no register and emits no event, not even a flush. -/
def Obligations.SkippedCycleHoldsEverything : Prop :=
  ∀ s t : State, Skipped s → step s = .next t → SameRegisters s t ∧ t.events = [] ∧ t.sink = s.sink

/-- A diff cycle (R130, R134, R135, R159; the synthetic button's place is decision D12, the flush D11): its events are the scan's,
then the synthetic button's, then one flush; the frame's data bytes become `PREV`. -/
def Obligations.DiffCycleReportsExactlyTheChanges : Prop :=
  ∀ (s : State) (v : Variant), s.configOk = true → DiffFor v s → ∃ t, step s = .next t ∧
    t.events = scanEvents s v (pollFrame s).data s.prev ++ synEvents s v (pollFrame s) ++ [.flush] ∧
    t.prev = (pollFrame s).data ∧ t.safe = false ∧ t.var = .held v ∧
    t.synPrev = (if v = .b then synCondition s.params (pollFrame s) else s.synPrev)

/-- R137 (the spec derives it): a cycle on the frame just diffed is a diff cycle whose only event is the flush, and it changes no register. -/
def Obligations.RepeatedFrameEmitsOnlyAFlush : Prop :=
  ∀ (s t : State) (v : Variant), DiffFor v s → step s = .next t → nextFrame t = nextFrame s →
    ∃ u, step t = .next u ∧ u.events = [.flush] ∧ SameRegisters t u

/-- R155's three shapes of an event list (the spec derives them; the flushes are decision D11): empty; the 23 events of the reset; at most 33 emissions and one flush. -/
def Obligations.CycleEventListHasOneOfThreeShapes : Prop :=
  ∀ s t : State, step s = .next t →
    t.events = [] ∨ t.events = safeResetEvents s.params ∨
    ∃ es : List Event, t.events = es ++ [.flush] ∧ es.length ≤ 33 ∧ Event.flush ∉ es

/-- R109, R176 (decision D10): from a safe state the first matching frame is diffed against zero: each active mapped bit is
reported, none as released. -/
def Obligations.ReidentificationReportsActiveBits : Prop :=
  ∀ (s : State) (v : Variant), s.configOk = true → s.Clean → s.var = .absent → pollClass s = .matched v →
    ∃ t, step s = .next t ∧ t.var = .held v ∧ t.safe = false ∧
      t.events = (scanOrder.filterMap fun p =>
          if levelAt (pollFrame s).data p then (entryAt s v p).bind (eventOf s.params true) else none) ++
        synEvents s v (pollFrame s) ++ [.flush]

/-- The paddle of the source's worked example (R123 b, R131): with VariantA held and the frame still VariantA's, clearing any bit of
byte 0 that table A maps to button 1 emits release(1); and tables as the source describes them have such a bit at an index 0..4
(the spec derives the range 0..4 and has R123 taken as a hypothesis). -/
def Obligations.LeftPaddleReleaseIsReported : Prop :=
  ∀ s : State, s.configOk = true → s.var = .held .a → pollClass s = .matched .a →
    (∀ i : Fin 8, entryAt s .a (0, i) = some (.button 1) → s.prev[0].getLsbD i = true → (pollFrame s)[0].getLsbD i = false →
      ∃ t, step s = .next t ∧ Event.release 1 ∈ t.events) ∧
    (RealTables s → ∃ i : Fin 8, i.val ≤ 4 ∧ entryAt s .a (0, i) = some (.button 1) ∧
      (s.prev[0].getLsbD i = true → (pollFrame s)[0].getLsbD i = false → ∃ t, step s = .next t ∧ Event.release 1 ∈ t.events))

/-! ### Invariants and whole-machine rules -/

/-- The invariants hold right after reset (R30, R26, R31; the reset values are decision D9 and log 2, 5, 6). -/
def Obligations.ResetMeetsTheRestState : Prop :=
  State.reset.RestInv ∧ State.reset.HatLegal ∧ State.reset.Mirrored ∧ State.reset.rom.wf = true ∧ State.reset.configOk = true

/-- R30 (the spec derives it; it rests on decisions D8 and D10): every step keeps "SAFE or no variant implies the released, centred, zero state", and `SAFE` only
while no variant is held. -/
def Obligations.StepKeepsTheRestState : Prop :=
  ∀ s t : State, s.RestInv → step s = .next t → t.RestInv

/-- R26, R79, R152: every step keeps `HAT` at the centred value or 1, 3, 5, 7, so on a configuration that runs never at 2, 4, 6, 8; and
every set-hat event of a step, kept or overtaken by a later one, carries the centred value or 1, 3, 5, 7, never 2, 4, 6, 8. -/
def Obligations.StepNeverHoldsADiagonal : Prop :=
  ∀ s t : State, step s = .next t →
    (s.HatLegal → t.HatLegal ∧ t.hat ∉ ([2, 4, 6, 8] : List HatCode)) ∧
    (∀ c : HatCode, Event.setHat c ∈ t.events →
      (c = s.params.hatCentered ∨ c = 1 ∨ c = 3 ∨ c = 5 ∨ c = 7) ∧ c ∉ ([2, 4, 6, 8] : List HatCode))

/-- R31, the mirror law of the reference sink (the spec derives it; the sink is decision D15): a step keeps the report object equal to (`BTN`, `HAT`), and the report a cycle's
flush sends equals (`BTN`, `HAT`); a cycle without a flush sends none. -/
def Obligations.StepKeepsTheMirrorLaw : Prop :=
  ∀ s t : State, s.Mirrored → step s = .next t →
    t.Mirrored ∧ t.sink.sent = s.sink.sent ++ (if Event.flush ∈ t.events then [{ rb := t.btn, rh := t.hat }] else [])

/-- R162: nothing the decoder does depends on the sink (the reference sink of R160, decision D15, held in State by log 14): with any other sink, every instruction answers alike and leaves the same state
but for the sink. -/
def Obligations.NoInstructionReadsTheSink : Prop :=
  ∀ (i : Instr) (s : State) (k : Sink),
    (∀ t, exec i s = .next t → ∃ k', exec i { s with sink := k } = .next { t with sink := k' }) ∧
    (∀ x, exec i s = .fault x → exec i { s with sink := k } = .fault x) ∧
    (∀ x, exec i s = .refused x → exec i { s with sink := k } = .refused x)

/-- R112 (a), (b), (c) (the spec derives them; decisions D5 and D6): `VAR` changes only on Absent or on a match with none held; the emissions of a cycle
come from a diff cycle or from the safe-state reset. -/
def Obligations.VariantChangesOnlyThroughAbsent : Prop :=
  ∀ s t : State, step s = .next t →
    (t.var ≠ s.var → (pollClass s = .absent ∧ t.var = .absent) ∨ ∃ v, pollClass s = .matched v ∧ s.var = .absent ∧ t.var = .held v) ∧
    (t.events ≠ [] → (∃ v, DiffFor v s ∧ pollClass s = .matched v ∧ t.var = .held v) ∨ (pollClass s = .absent ∧ s.safe = false))

/-- R108 (b), R177 (what one absence episode is, is decision D8): once the safe-state reset is done, any number of cycles that match no variant emit nothing, change no register
and send no report. -/
def Obligations.NoRepeatedResetWhileUnmatched : Prop :=
  ∀ (frames : List Frame) (s : State), s.configOk = true → s.safe = true → s.var = .absent → s.bus = frames →
    (∀ r ∈ frames, ∀ v, classOf r.invert ≠ .matched v) →
    ∃ t, observe frames.length s = some ([], t) ∧ SameRegisters s t ∧ t.sink = s.sink

/-- R17, R47: the reference sink (R160, decision D15) after a run is the events of the run, in order, applied to the sink before it. -/
def Obligations.SinkFollowsTheObservation : Prop :=
  ∀ (n : Nat) (s : State) (es : List Event) (t : State), observe n s = some (es, t) → t.sink = es.foldl Sink.apply s.sink
end

