-- ==== Sys2Proof/Laws/State.lean ====
section
/-! SUPPORT. One lemma per field per update, true by rfl: no later proof unfolds a record update. -/

namespace Sys2Proof.Machine.State

variable (s : State)

@[simp] theorem withLoc_prev (l : Locals) : (s.withLoc l).prev = s.prev := rfl
@[simp] theorem withLoc_var (l : Locals) : (s.withLoc l).var = s.var := rfl
@[simp] theorem withLoc_safe (l : Locals) : (s.withLoc l).safe = s.safe := rfl
@[simp] theorem withLoc_synPrev (l : Locals) : (s.withLoc l).synPrev = s.synPrev := rfl
@[simp] theorem withLoc_btn (l : Locals) : (s.withLoc l).btn = s.btn := rfl
@[simp] theorem withLoc_hat (l : Locals) : (s.withLoc l).hat = s.hat := rfl
@[simp] theorem withLoc_loc (l : Locals) : (s.withLoc l).loc = l := rfl
@[simp] theorem withLoc_events (l : Locals) : (s.withLoc l).events = s.events := rfl
@[simp] theorem withLoc_rom (l : Locals) : (s.withLoc l).rom = s.rom := rfl
@[simp] theorem withLoc_params (l : Locals) : (s.withLoc l).params = s.params := rfl
@[simp] theorem withLoc_bus (l : Locals) : (s.withLoc l).bus = s.bus := rfl
@[simp] theorem withLoc_draws (l : Locals) : (s.withLoc l).draws = s.draws := rfl
@[simp] theorem withLoc_sink (l : Locals) : (s.withLoc l).sink = s.sink := rfl

@[simp] theorem withPrev_prev (p : DataBytes) : (s.withPrev p).prev = p := rfl
@[simp] theorem withPrev_var (p : DataBytes) : (s.withPrev p).var = s.var := rfl
@[simp] theorem withPrev_safe (p : DataBytes) : (s.withPrev p).safe = s.safe := rfl
@[simp] theorem withPrev_synPrev (p : DataBytes) : (s.withPrev p).synPrev = s.synPrev := rfl
@[simp] theorem withPrev_btn (p : DataBytes) : (s.withPrev p).btn = s.btn := rfl
@[simp] theorem withPrev_hat (p : DataBytes) : (s.withPrev p).hat = s.hat := rfl
@[simp] theorem withPrev_loc (p : DataBytes) : (s.withPrev p).loc = s.loc := rfl
@[simp] theorem withPrev_events (p : DataBytes) : (s.withPrev p).events = s.events := rfl
@[simp] theorem withPrev_rom (p : DataBytes) : (s.withPrev p).rom = s.rom := rfl
@[simp] theorem withPrev_params (p : DataBytes) : (s.withPrev p).params = s.params := rfl
@[simp] theorem withPrev_bus (p : DataBytes) : (s.withPrev p).bus = s.bus := rfl
@[simp] theorem withPrev_draws (p : DataBytes) : (s.withPrev p).draws = s.draws := rfl
@[simp] theorem withPrev_sink (p : DataBytes) : (s.withPrev p).sink = s.sink := rfl

@[simp] theorem withVar_prev (v : WheelVariant) : (s.withVar v).prev = s.prev := rfl
@[simp] theorem withVar_var (v : WheelVariant) : (s.withVar v).var = v := rfl
@[simp] theorem withVar_safe (v : WheelVariant) : (s.withVar v).safe = s.safe := rfl
@[simp] theorem withVar_synPrev (v : WheelVariant) : (s.withVar v).synPrev = s.synPrev := rfl
@[simp] theorem withVar_btn (v : WheelVariant) : (s.withVar v).btn = s.btn := rfl
@[simp] theorem withVar_hat (v : WheelVariant) : (s.withVar v).hat = s.hat := rfl
@[simp] theorem withVar_loc (v : WheelVariant) : (s.withVar v).loc = s.loc := rfl
@[simp] theorem withVar_events (v : WheelVariant) : (s.withVar v).events = s.events := rfl
@[simp] theorem withVar_rom (v : WheelVariant) : (s.withVar v).rom = s.rom := rfl
@[simp] theorem withVar_params (v : WheelVariant) : (s.withVar v).params = s.params := rfl
@[simp] theorem withVar_bus (v : WheelVariant) : (s.withVar v).bus = s.bus := rfl
@[simp] theorem withVar_draws (v : WheelVariant) : (s.withVar v).draws = s.draws := rfl
@[simp] theorem withVar_sink (v : WheelVariant) : (s.withVar v).sink = s.sink := rfl

@[simp] theorem withSafe_prev (x : Bool) : (s.withSafe x).prev = s.prev := rfl
@[simp] theorem withSafe_var (x : Bool) : (s.withSafe x).var = s.var := rfl
@[simp] theorem withSafe_safe (x : Bool) : (s.withSafe x).safe = x := rfl
@[simp] theorem withSafe_synPrev (x : Bool) : (s.withSafe x).synPrev = s.synPrev := rfl
@[simp] theorem withSafe_btn (x : Bool) : (s.withSafe x).btn = s.btn := rfl
@[simp] theorem withSafe_hat (x : Bool) : (s.withSafe x).hat = s.hat := rfl
@[simp] theorem withSafe_loc (x : Bool) : (s.withSafe x).loc = s.loc := rfl
@[simp] theorem withSafe_events (x : Bool) : (s.withSafe x).events = s.events := rfl
@[simp] theorem withSafe_rom (x : Bool) : (s.withSafe x).rom = s.rom := rfl
@[simp] theorem withSafe_params (x : Bool) : (s.withSafe x).params = s.params := rfl
@[simp] theorem withSafe_bus (x : Bool) : (s.withSafe x).bus = s.bus := rfl
@[simp] theorem withSafe_draws (x : Bool) : (s.withSafe x).draws = s.draws := rfl
@[simp] theorem withSafe_sink (x : Bool) : (s.withSafe x).sink = s.sink := rfl

@[simp] theorem withSynPrev_prev (x : Bool) : (s.withSynPrev x).prev = s.prev := rfl
@[simp] theorem withSynPrev_var (x : Bool) : (s.withSynPrev x).var = s.var := rfl
@[simp] theorem withSynPrev_safe (x : Bool) : (s.withSynPrev x).safe = s.safe := rfl
@[simp] theorem withSynPrev_synPrev (x : Bool) : (s.withSynPrev x).synPrev = x := rfl
@[simp] theorem withSynPrev_btn (x : Bool) : (s.withSynPrev x).btn = s.btn := rfl
@[simp] theorem withSynPrev_hat (x : Bool) : (s.withSynPrev x).hat = s.hat := rfl
@[simp] theorem withSynPrev_loc (x : Bool) : (s.withSynPrev x).loc = s.loc := rfl
@[simp] theorem withSynPrev_events (x : Bool) : (s.withSynPrev x).events = s.events := rfl
@[simp] theorem withSynPrev_rom (x : Bool) : (s.withSynPrev x).rom = s.rom := rfl
@[simp] theorem withSynPrev_params (x : Bool) : (s.withSynPrev x).params = s.params := rfl
@[simp] theorem withSynPrev_bus (x : Bool) : (s.withSynPrev x).bus = s.bus := rfl
@[simp] theorem withSynPrev_draws (x : Bool) : (s.withSynPrev x).draws = s.draws := rfl
@[simp] theorem withSynPrev_sink (x : Bool) : (s.withSynPrev x).sink = s.sink := rfl

@[simp] theorem withBtn_prev (b : Fin 21) (x : Bool) : (s.withBtn b x).prev = s.prev := rfl
@[simp] theorem withBtn_var (b : Fin 21) (x : Bool) : (s.withBtn b x).var = s.var := rfl
@[simp] theorem withBtn_safe (b : Fin 21) (x : Bool) : (s.withBtn b x).safe = s.safe := rfl
@[simp] theorem withBtn_synPrev (b : Fin 21) (x : Bool) : (s.withBtn b x).synPrev = s.synPrev := rfl
@[simp] theorem withBtn_btn (b : Fin 21) (x : Bool) : (s.withBtn b x).btn = s.btn.set b x := rfl
@[simp] theorem withBtn_hat (b : Fin 21) (x : Bool) : (s.withBtn b x).hat = s.hat := rfl
@[simp] theorem withBtn_loc (b : Fin 21) (x : Bool) : (s.withBtn b x).loc = s.loc := rfl
@[simp] theorem withBtn_events (b : Fin 21) (x : Bool) : (s.withBtn b x).events = s.events := rfl
@[simp] theorem withBtn_rom (b : Fin 21) (x : Bool) : (s.withBtn b x).rom = s.rom := rfl
@[simp] theorem withBtn_params (b : Fin 21) (x : Bool) : (s.withBtn b x).params = s.params := rfl
@[simp] theorem withBtn_bus (b : Fin 21) (x : Bool) : (s.withBtn b x).bus = s.bus := rfl
@[simp] theorem withBtn_draws (b : Fin 21) (x : Bool) : (s.withBtn b x).draws = s.draws := rfl
@[simp] theorem withBtn_sink (b : Fin 21) (x : Bool) : (s.withBtn b x).sink = s.sink := rfl

@[simp] theorem withHat_prev (c : HatCode) : (s.withHat c).prev = s.prev := rfl
@[simp] theorem withHat_var (c : HatCode) : (s.withHat c).var = s.var := rfl
@[simp] theorem withHat_safe (c : HatCode) : (s.withHat c).safe = s.safe := rfl
@[simp] theorem withHat_synPrev (c : HatCode) : (s.withHat c).synPrev = s.synPrev := rfl
@[simp] theorem withHat_btn (c : HatCode) : (s.withHat c).btn = s.btn := rfl
@[simp] theorem withHat_hat (c : HatCode) : (s.withHat c).hat = c := rfl
@[simp] theorem withHat_loc (c : HatCode) : (s.withHat c).loc = s.loc := rfl
@[simp] theorem withHat_events (c : HatCode) : (s.withHat c).events = s.events := rfl
@[simp] theorem withHat_rom (c : HatCode) : (s.withHat c).rom = s.rom := rfl
@[simp] theorem withHat_params (c : HatCode) : (s.withHat c).params = s.params := rfl
@[simp] theorem withHat_bus (c : HatCode) : (s.withHat c).bus = s.bus := rfl
@[simp] theorem withHat_draws (c : HatCode) : (s.withHat c).draws = s.draws := rfl
@[simp] theorem withHat_sink (c : HatCode) : (s.withHat c).sink = s.sink := rfl

@[simp] theorem withEvents_prev (es : List Event) : (s.withEvents es).prev = s.prev := rfl
@[simp] theorem withEvents_var (es : List Event) : (s.withEvents es).var = s.var := rfl
@[simp] theorem withEvents_safe (es : List Event) : (s.withEvents es).safe = s.safe := rfl
@[simp] theorem withEvents_synPrev (es : List Event) : (s.withEvents es).synPrev = s.synPrev := rfl
@[simp] theorem withEvents_btn (es : List Event) : (s.withEvents es).btn = s.btn := rfl
@[simp] theorem withEvents_hat (es : List Event) : (s.withEvents es).hat = s.hat := rfl
@[simp] theorem withEvents_loc (es : List Event) : (s.withEvents es).loc = s.loc := rfl
@[simp] theorem withEvents_events (es : List Event) : (s.withEvents es).events = es := rfl
@[simp] theorem withEvents_rom (es : List Event) : (s.withEvents es).rom = s.rom := rfl
@[simp] theorem withEvents_params (es : List Event) : (s.withEvents es).params = s.params := rfl
@[simp] theorem withEvents_bus (es : List Event) : (s.withEvents es).bus = s.bus := rfl
@[simp] theorem withEvents_draws (es : List Event) : (s.withEvents es).draws = s.draws := rfl
@[simp] theorem withEvents_sink (es : List Event) : (s.withEvents es).sink = s.sink := rfl

@[simp] theorem withBus_prev (fs : List Frame) : (s.withBus fs).prev = s.prev := rfl
@[simp] theorem withBus_var (fs : List Frame) : (s.withBus fs).var = s.var := rfl
@[simp] theorem withBus_safe (fs : List Frame) : (s.withBus fs).safe = s.safe := rfl
@[simp] theorem withBus_synPrev (fs : List Frame) : (s.withBus fs).synPrev = s.synPrev := rfl
@[simp] theorem withBus_btn (fs : List Frame) : (s.withBus fs).btn = s.btn := rfl
@[simp] theorem withBus_hat (fs : List Frame) : (s.withBus fs).hat = s.hat := rfl
@[simp] theorem withBus_loc (fs : List Frame) : (s.withBus fs).loc = s.loc := rfl
@[simp] theorem withBus_events (fs : List Frame) : (s.withBus fs).events = s.events := rfl
@[simp] theorem withBus_rom (fs : List Frame) : (s.withBus fs).rom = s.rom := rfl
@[simp] theorem withBus_params (fs : List Frame) : (s.withBus fs).params = s.params := rfl
@[simp] theorem withBus_bus (fs : List Frame) : (s.withBus fs).bus = fs := rfl
@[simp] theorem withBus_draws (fs : List Frame) : (s.withBus fs).draws = s.draws := rfl
@[simp] theorem withBus_sink (fs : List Frame) : (s.withBus fs).sink = s.sink := rfl

/-- An update of a field to what it holds changes nothing. -/
@[simp] theorem withLoc_self : s.withLoc s.loc = s := rfl
/-- The last of two writes of the locals counts. -/
@[simp] theorem withLoc_withLoc (l l' : Locals) : (s.withLoc l).withLoc l' = s.withLoc l' := rfl

end Sys2Proof.Machine.State

namespace Sys2Proof.Machine

/-! The emission of one event, and the two shared operations that write a register and emit. -/

variable (e : Event) (b : Fin 21) (x : Bool) (c : HatCode) (s : State)

@[simp] theorem emit_prev : (emit e s).prev = s.prev := rfl
@[simp] theorem emit_var : (emit e s).var = s.var := rfl
@[simp] theorem emit_safe : (emit e s).safe = s.safe := rfl
@[simp] theorem emit_synPrev : (emit e s).synPrev = s.synPrev := rfl
@[simp] theorem emit_btn : (emit e s).btn = s.btn := rfl
@[simp] theorem emit_hat : (emit e s).hat = s.hat := rfl
@[simp] theorem emit_loc : (emit e s).loc = s.loc := rfl
@[simp] theorem emit_events : (emit e s).events = s.events ++ [e] := rfl
@[simp] theorem emit_rom : (emit e s).rom = s.rom := rfl
@[simp] theorem emit_params : (emit e s).params = s.params := rfl
@[simp] theorem emit_bus : (emit e s).bus = s.bus := rfl
@[simp] theorem emit_draws : (emit e s).draws = s.draws := rfl
@[simp] theorem emit_sink : (emit e s).sink = s.sink.apply e := rfl

@[simp] theorem setButton_prev : (setButton b x s).prev = s.prev := rfl
@[simp] theorem setButton_var : (setButton b x s).var = s.var := rfl
@[simp] theorem setButton_safe : (setButton b x s).safe = s.safe := rfl
@[simp] theorem setButton_synPrev : (setButton b x s).synPrev = s.synPrev := rfl
@[simp] theorem setButton_btn : (setButton b x s).btn = s.btn.set b x := rfl
@[simp] theorem setButton_hat : (setButton b x s).hat = s.hat := rfl
@[simp] theorem setButton_loc : (setButton b x s).loc = s.loc := rfl
@[simp] theorem setButton_events : (setButton b x s).events = s.events ++ [if x then .press b else .release b] := rfl
@[simp] theorem setButton_rom : (setButton b x s).rom = s.rom := rfl
@[simp] theorem setButton_params : (setButton b x s).params = s.params := rfl
@[simp] theorem setButton_bus : (setButton b x s).bus = s.bus := rfl
@[simp] theorem setButton_draws : (setButton b x s).draws = s.draws := rfl
@[simp] theorem setButton_sink : (setButton b x s).sink = s.sink.apply (if x then .press b else .release b) := rfl

@[simp] theorem setHatCode_prev : (setHatCode c s).prev = s.prev := rfl
@[simp] theorem setHatCode_var : (setHatCode c s).var = s.var := rfl
@[simp] theorem setHatCode_safe : (setHatCode c s).safe = s.safe := rfl
@[simp] theorem setHatCode_synPrev : (setHatCode c s).synPrev = s.synPrev := rfl
@[simp] theorem setHatCode_btn : (setHatCode c s).btn = s.btn := rfl
@[simp] theorem setHatCode_hat : (setHatCode c s).hat = c := rfl
@[simp] theorem setHatCode_loc : (setHatCode c s).loc = s.loc := rfl
@[simp] theorem setHatCode_events : (setHatCode c s).events = s.events ++ [.setHat c] := rfl
@[simp] theorem setHatCode_rom : (setHatCode c s).rom = s.rom := rfl
@[simp] theorem setHatCode_params : (setHatCode c s).params = s.params := rfl
@[simp] theorem setHatCode_bus : (setHatCode c s).bus = s.bus := rfl
@[simp] theorem setHatCode_draws : (setHatCode c s).draws = s.draws := rfl
@[simp] theorem setHatCode_sink : (setHatCode c s).sink = s.sink.apply (.setHat c) := rfl

/-! What an operation reads is unmoved by an update of what it does not read. -/

@[simp] theorem tblByte_withLoc (l : Locals) (v : Variant) (i : Fin 32) : (s.withLoc l).tblByte v i = s.tblByte v i := rfl
@[simp] theorem tblByte_emit (v : Variant) (i : Fin 32) : (emit e s).tblByte v i = s.tblByte v i := rfl
@[simp] theorem tblByte_setButton (v : Variant) (i : Fin 32) : (setButton b x s).tblByte v i = s.tblByte v i := rfl
@[simp] theorem tblByte_setHatCode (v : Variant) (i : Fin 32) : (setHatCode c s).tblByte v i = s.tblByte v i := rfl

end Sys2Proof.Machine
end

