-- ==== Sys2Proof/Laws/Ops.lean ====
section
/-! SUPPORT. What each shared operation can do, said once: sequencing, the frame input, the safe-state reset, the sink. -/

namespace Sys2Proof.Machine

@[simp] theorem andThen_next (s : State) (k : State → Result) : andThen (.next s) k = k s := rfl
@[simp] theorem andThen_fault (x : Fault) (k : State → Result) : andThen (.fault x) k = .fault x := rfl
@[simp] theorem andThen_refused (x : Refusal) (k : State → Result) : andThen (.refused x) k = .refused x := rfl

/-- A sequence that answers next ran both parts. -/
theorem andThen_eq_next {r : Result} {k : State → Result} {t : State} :
    andThen r k = .next t ↔ ∃ s, r = .next s ∧ k s = .next t := by
  cases r <;> simp [andThen]

@[simp] theorem forEach_nil {α : Type} (f : α → State → Result) (s : State) : forEach f [] s = .next s := rfl
@[simp] theorem forEach_cons {α : Type} (f : α → State → Result) (x : α) (xs : List α) (s : State) :
    forEach f (x :: xs) s = andThen (f x s) (forEach f xs) := rfl

/-- A property that every item keeps is kept by the whole. -/
theorem forEach_keeps {α : Type} {f : α → State → Result} {P : State → Prop} {xs : List α}
    (h : ∀ x ∈ xs, ∀ s t, P s → f x s = .next t → P t) {s t : State} (hs : P s) (ht : forEach f xs s = .next t) : P t := by
  induction xs generalizing s with
  | nil => simp at ht; exact ht ▸ hs
  | cons x xs ih =>
    obtain ⟨u, hu, hr⟩ := andThen_eq_next.1 ht
    exact ih (fun y hy => h y (by simp [hy])) (h x (by simp) s u hs hu) hr

/-- Nothing changes in the registers, the configuration, the output; the frame is consumed. -/
theorem consumeFrame_spec (s : State) :
    consumeFrame s = { s with bus := s.bus.tail, draws := if s.bus = [] then s.draws + 1 else s.draws } := by
  unfold consumeFrame
  cases h : s.bus <;> simp [State.withBus]

/-- Reading and inverting the frame always completes, in the state `fetched` names (R155). -/
theorem readFrame_eq (s : State) : readFrame s = .next (fetched s) := by
  simp only [readFrame, execRdframe, execInvert, execObserve, andThen_next, consumeFrame_spec]
  rfl

/-- The 21 releases in order. -/
theorem releaseAll_spec (bs : List (Fin 21)) (s : State) :
    bs.foldl (fun t b => setButton b false t) s =
      { s with
        btn := bs.foldl (fun (v : Buttons) (b : Fin 21) => v.set b false) s.btn
        events := s.events ++ bs.map Event.release
        sink := (bs.map Event.release).foldl Sink.apply s.sink } := by
  induction bs generalizing s with
  | nil => simp
  | cons b bs ih => rw [List.foldl_cons, ih]; simp [setButton, emit, State.withBtn]

/-- Releasing a list of buttons releases those and no other. -/
theorem foldl_release_get (bs : List (Fin 21)) (v : Buttons) (c : Fin 21) :
    (bs.foldl (fun (v : Buttons) (b : Fin 21) => v.set b false) v)[c] = if c ∈ bs then false else v[c] := by
  induction bs generalizing v with
  | nil => simp
  | cons b bs ih =>
    rw [List.foldl_cons, ih]
    by_cases hc : c ∈ bs
    · simp [hc]
    · by_cases hb : b = c
      · subst hb; simp [hc]
      · have hv : b.val ≠ c.val := fun h => hb (Fin.ext h)
        have hb' : ¬ c = b := fun h => hb h.symm
        simp [hc, hv, hb']

/-- Every button is released by the 21 releases. -/
theorem release_all_eq (v : Buttons) :
    (List.finRange 21).foldl (fun (v : Buttons) (b : Fin 21) => v.set b false) v = Vector.replicate 21 false := by
  ext i hi
  have := foldl_release_get (List.finRange 21) v ⟨i, hi⟩
  simpa using this

/-- The safe-state reset as one update (R174). -/
theorem enterSafeState_spec (s : State) :
    enterSafeState s =
      { s with
        prev := Vector.replicate 4 0, safe := true, synPrev := false, btn := Vector.replicate 21 false,
        hat := s.params.hatCentered
        events := s.events ++ safeResetEvents s.params
        sink := (safeResetEvents s.params).foldl Sink.apply s.sink } := by
  simp only [enterSafeState, releaseAll_spec, release_all_eq]
  simp [setHatCode, emit, State.withPrev, State.withSynPrev, State.withSafe, State.withHat, safeResetEvents, List.foldl_append]
  rfl

end Sys2Proof.Machine
end

