-- ==== Sys2Proof/Laws/Detector.lean ====
section
/-! SUPPORT. What a visit and a scan can do, said once: the moved and routed state as a plain function, and the scan as its fold. -/

namespace Sys2Proof.Machine

/-- The effect of an entry for a bit of level `cur`, without an outcome. -/
def routed (e : Entry) (cur : Bool) (s : State) : State :=
  match e with
  | .unmapped => s
  | .button b => setButton b cur s
  | .hat d =>
    setHatCode (if cur then hatconv d else s.params.hatCentered)
      (s.withLoc { s.loc with code := if cur then hatconv d else s.params.hatCentered })

/-- Routing always completes, in the routed state (R131 to R133). -/
theorem routeEntry_eq (e : Entry) (s : State) : routeEntry e s = .next (routed e (curBit s) s) := by
  cases e with
  | unmapped => rfl
  | button b => rfl
  | hat d =>
    simp only [routeEntry, execRouteHat, routed, execHatconv]
    cases curBit s <;> rfl

/-- The events of a routed entry are the entry's event, if any. -/
theorem routed_events (e : Entry) (cur : Bool) (s : State) :
    (routed e cur s).events = s.events ++ (eventOf s.params cur e).toList := by
  cases e <;> simp [routed, eventOf]

/-- The sink receives the entry's event, if any. -/
theorem routed_sink (e : Entry) (cur : Bool) (s : State) :
    (routed e cur s).sink = (eventOf s.params cur e).toList.foldl Sink.apply s.sink := by
  cases e <;> simp [routed, eventOf]

/-- What routing leaves alone. -/
theorem routed_frame (e : Entry) (cur : Bool) (s : State) :
    (routed e cur s).prev = s.prev ∧ (routed e cur s).var = s.var ∧ (routed e cur s).safe = s.safe ∧
    (routed e cur s).synPrev = s.synPrev ∧ (routed e cur s).rom = s.rom ∧ (routed e cur s).params = s.params ∧
    (routed e cur s).bus = s.bus ∧ (routed e cur s).draws = s.draws ∧ (routed e cur s).loc.f = s.loc.f ∧
    (routed e cur s).loc.raw = s.loc.raw ∧ (routed e cur s).loc.cls = s.loc.cls ∧ (routed e cur s).loc.path = s.loc.path := by
  cases e <;> simp [routed]

/-- A button after routing. -/
theorem routed_btn (e : Entry) (cur : Bool) (s : State) (b : Fin 21) :
    (routed e cur s).btn[b] = if e = .button b then cur else s.btn[b] := by
  cases e with
  | unmapped => simp [routed]
  | hat d => simp [routed]
  | button c =>
    by_cases h : c = b
    · subst h; simp [routed]
    · have : c.val ≠ b.val := fun h' => h (Fin.ext h')
      simp [routed, h, this]

/-- The hat after routing. -/
theorem routed_hat (e : Entry) (cur : Bool) (s : State) :
    (routed e cur s).hat = match e with
      | .hat d => if cur then hatconv d else s.params.hatCentered
      | .unmapped => s.hat
      | .button _ => s.hat := by
  cases e <;> simp [routed]

/-- One visit, whole: nothing for an unchanged bit; a changed one is routed by its entry, or stops where LOOKUP stops (R130). -/
theorem visit_eq (p : Fin 4 × Fin 8) (s : State) :
    visit p s =
      if changedAt s.loc.f.data s.prev p then
        match s.var with
        | .absent => .fault .noTableForAbsent
        | .held v =>
          match entryAt s v p with
          | some e => .next (routed e (levelAt s.loc.f.data p)
              (s.withLoc { s.loc with byteIndex := p.1, bitIndex := p.2, entry := e }))
          | none => .refused .illFormedConfig
      else .next (moveScan p s) := by
  have hc : (curBit (moveScan p s) = prevBit (moveScan p s)) ↔ ¬ changedAt s.loc.f.data s.prev p = true := by
    simp [changedAt, levelAt, curBit, prevBit, moveScan]
  by_cases h : changedAt s.loc.f.data s.prev p = true
  · have hn : ¬ curBit (moveScan p s) = prevBit (moveScan p s) := fun hh => hc.1 hh h
    have hr : visit p s = andThen (execLookup p.1 p.2 (moveScan p s)) fun u => routeEntry u.loc.entry u := by
      simp only [visit, hn, if_false]
    rw [hr, if_pos h]
    simp only [execLookup, moveScan, State.withLoc_var]
    cases hv : s.var with
    | absent => rfl
    | held v =>
      simp only [entryAt, tblByte_withLoc]
      cases he : Entry.ofByte (s.tblByte v (linearIndex p.1 p.2)) with
      | none => rfl
      | some e => simp only [andThen_next, routeEntry_eq]; rfl
  · rw [if_neg h]
    simp only [visit, hc.2 h, if_true]

/-- What one visit that completes leaves alone. -/
theorem visit_frame {p : Fin 4 × Fin 8} {s t : State} (h : visit p s = .next t) :
    t.prev = s.prev ∧ t.var = s.var ∧ t.safe = s.safe ∧ t.synPrev = s.synPrev ∧ t.rom = s.rom ∧ t.params = s.params ∧
    t.bus = s.bus ∧ t.draws = s.draws ∧ t.loc.f = s.loc.f ∧ t.loc.raw = s.loc.raw ∧ t.loc.cls = s.loc.cls ∧
    t.loc.path = s.loc.path := by
  rw [visit_eq] at h
  split at h
  · split at h
    · cases h
    · split at h
      · rename_i e _
        cases h
        simpa using routed_frame e (levelAt s.loc.f.data p) (s.withLoc { s.loc with byteIndex := p.1, bitIndex := p.2, entry := e })
      · cases h
  · cases h; simp [moveScan]

/-- What a scan of any list of positions leaves alone. -/
theorem scan_frame {ps : List (Fin 4 × Fin 8)} {s t : State} (h : forEach visit ps s = .next t) :
    t.prev = s.prev ∧ t.var = s.var ∧ t.safe = s.safe ∧ t.synPrev = s.synPrev ∧ t.rom = s.rom ∧ t.params = s.params ∧
    t.bus = s.bus ∧ t.draws = s.draws ∧ t.loc.f = s.loc.f ∧ t.loc.raw = s.loc.raw ∧ t.loc.cls = s.loc.cls ∧
    t.loc.path = s.loc.path := by
  induction ps generalizing s with
  | nil => simp at h; subst h; simp
  | cons p ps ih =>
    obtain ⟨u, hu, hr⟩ := andThen_eq_next.1 h
    have a := ih hr
    have b := visit_frame hu
    simp_all only [and_self]

/-- A table byte is the same entry in two states that hold the same tables. -/
theorem entryAt_congr {s t : State} (h : t.rom = s.rom) (v : Variant) (p : Fin 4 × Fin 8) : entryAt t v p = entryAt s v p := by
  simp only [entryAt, State.tblByte, h]

/-- A scan under a held variant whose entries are all legal completes (R130, R18). -/
theorem scan_completes (ps : List (Fin 4 × Fin 8)) {s : State} {v : Variant} (hv : s.var = .held v)
    (hl : ∀ p, (entryAt s v p).isSome = true) : ∃ t, forEach visit ps s = .next t := by
  induction ps generalizing s with
  | nil => exact ⟨s, rfl⟩
  | cons p ps ih =>
    have hstep : ∃ u, visit p s = .next u := by
      rw [visit_eq]
      split
      · obtain ⟨e, he⟩ := Option.isSome_iff_exists.1 (hl p)
        simp [hv, he]
      · exact ⟨_, rfl⟩
    obtain ⟨u, hu⟩ := hstep
    have k := visit_frame hu
    obtain ⟨t, ht⟩ := ih (k.2.1.trans hv) fun q => by rw [entryAt_congr k.2.2.2.2.1]; exact hl q
    exact ⟨t, by simp [hu, ht]⟩

/-- The events of a scan of any list of positions; over `scanOrder` it is `scanEvents`. -/
def scanEventsOn (ps : List (Fin 4 × Fin 8)) (s : State) (v : Variant) (d d' : DataBytes) : List Event :=
  ps.filterMap fun p =>
    if changedAt d d' p then (entryAt s v p).bind (eventOf s.params (levelAt d p)) else none

theorem scanEventsOn_order (s : State) (v : Variant) (d d' : DataBytes) :
    scanEventsOn scanOrder s v d d' = scanEvents s v d d' := rfl

/-- One visit emits the events of its position, and the sink receives them. -/
theorem visit_events {p : Fin 4 × Fin 8} {s t : State} {v : Variant} (hv : s.var = .held v) (h : visit p s = .next t) :
    t.events = s.events ++ scanEventsOn [p] s v s.loc.f.data s.prev ∧
    t.sink = (scanEventsOn [p] s v s.loc.f.data s.prev).foldl Sink.apply s.sink := by
  rw [visit_eq] at h
  split at h
  · rename_i hc
    simp only [hv] at h
    split at h
    · rename_i e he
      cases h
      have hs : scanEventsOn [p] s v s.loc.f.data s.prev = (eventOf s.params (levelAt s.loc.f.data p) e).toList := by
        simp only [scanEventsOn, List.filterMap_cons, List.filterMap_nil, hc, he, if_true, Option.bind_some]
        cases eventOf s.params (levelAt s.loc.f.data p) e <;> rfl
      rw [routed_events, routed_sink, hs]
      exact ⟨rfl, rfl⟩
    · cases h
  · rename_i hc
    cases h
    simp [scanEventsOn, hc, moveScan]

/-- A scan emits the events of its positions in order, and the sink receives them (R130, R136). -/
theorem scan_events (ps : List (Fin 4 × Fin 8)) {s t : State} {v : Variant} (hv : s.var = .held v)
    (h : forEach visit ps s = .next t) :
    t.events = s.events ++ scanEventsOn ps s v s.loc.f.data s.prev ∧
    t.sink = (scanEventsOn ps s v s.loc.f.data s.prev).foldl Sink.apply s.sink := by
  induction ps generalizing s with
  | nil => simp at h; subst h; simp [scanEventsOn]
  | cons p ps ih =>
    obtain ⟨u, hu, hr⟩ := andThen_eq_next.1 h
    obtain ⟨k1, k2, -, -, k5, k6, -, -, k9, -⟩ := visit_frame hu
    obtain ⟨a, b⟩ := ih (k2.trans hv) hr
    obtain ⟨c, d⟩ := visit_events hv hu
    have hk : scanEventsOn ps u v u.loc.f.data u.prev = scanEventsOn ps s v s.loc.f.data s.prev := by
      simp only [scanEventsOn, entryAt_congr k5, k6, k9, k1]
    have hsplit : scanEventsOn (p :: ps) s v s.loc.f.data s.prev =
        scanEventsOn [p] s v s.loc.f.data s.prev ++ scanEventsOn ps s v s.loc.f.data s.prev := by
      rw [scanEventsOn, scanEventsOn, scanEventsOn, ← List.filterMap_append]; rfl
    rw [hk] at a b
    rw [a, b, c, d, hsplit]
    simp

end Sys2Proof.Machine
end

