-- ==== Sys2Proof/Laws/Encoding.lean ====
section
/-! SUPPORT. The pattern rows over `F40` in terms of the frame's fields, the classes of the rows, and the entry bytes. -/

namespace Sys2Proof

/-- Two concatenations are equal exactly when their parts are. -/
theorem append_eq_append_iff {m n : Nat} (x x' : BitVec m) (y y' : BitVec n) : x ++ y = x' ++ y' ↔ x = x' ∧ y = y' := by
  constructor
  · intro h
    have hl := congrArg (fun z => BitVec.extractLsb' n m z) h
    have hr := congrArg (fun z => BitVec.extractLsb' 0 n z) h
    simp only [BitVec.extractLsb'_append_eq_left, BitVec.extractLsb'_append_eq_right] at hl hr
    exact ⟨hl, hr⟩
  · rintro ⟨rfl, rfl⟩; rfl

/-- A mask and a match given byte by byte are met byte by byte. -/
theorem f40_and_eq_iff (f : Frame) (m0 m1 m2 m3 m4 p0 p1 p2 p3 p4 : Byte) :
    f.f40 &&& (m0 ++ m1 ++ m2 ++ m3 ++ m4) = p0 ++ p1 ++ p2 ++ p3 ++ p4 ↔
      f[0] &&& m0 = p0 ∧ f[1] &&& m1 = p1 ∧ f[2] &&& m2 = p2 ∧ f[3] &&& m3 = p3 ∧ f[4] &&& m4 = p4 := by
  have h : ((f[0] ++ f[1] ++ f[2] ++ f[3] ++ f[4] : BitVec (8 + 8 + 8 + 8 + 8)) &&& (m0 ++ m1 ++ m2 ++ m3 ++ m4)
      = p0 ++ p1 ++ p2 ++ p3 ++ p4) ↔
      f[0] &&& m0 = p0 ∧ f[1] &&& m1 = p1 ∧ f[2] &&& m2 = p2 ∧ f[3] &&& m3 = p3 ∧ f[4] &&& m4 = p4 := by
    simp only [BitVec.and_append, append_eq_append_iff, and_assoc]
  exact h

/-- The row of `m0..m4`, `p0..p4` hits exactly the frames whose bytes do. -/
theorem hits_iff (r : PatternRow) (f : Frame) (m0 m1 m2 m3 m4 p0 p1 p2 p3 p4 : Byte)
    (hm : r.mask = m0 ++ m1 ++ m2 ++ m3 ++ m4) (hp : r.pattern = p0 ++ p1 ++ p2 ++ p3 ++ p4) :
    r.hits f = true ↔ f[0] &&& m0 = p0 ∧ f[1] &&& m1 = p1 ∧ f[2] &&& m2 = p2 ∧ f[3] &&& m3 = p3 ∧ f[4] &&& m4 = p4 := by
  rw [PatternRow.hits, beq_iff_eq, hm, hp, f40_and_eq_iff]

/-- The header has its three bits alone. -/
theorem header_cases (f : Frame) :
    f.header = 0 ∨ f.header = 32 ∨ f.header = 64 ∨ f.header = 96 ∨ f.header = 128 ∨ f.header = 160 ∨ f.header = 192 ∨
      f.header = 224 := by
  have h : ∀ v : Byte, v &&& 0xE0 = 0 ∨ v &&& 0xE0 = 32 ∨ v &&& 0xE0 = 64 ∨ v &&& 0xE0 = 96 ∨ v &&& 0xE0 = 128 ∨
      v &&& 0xE0 = 160 ∨ v &&& 0xE0 = 192 ∨ v &&& 0xE0 = 224 := by decide
  exact h f[0]

/-- aux4 is 0 or 32. -/
theorem aux4_cases (f : Frame) : f.aux4 = 0 ∨ f.aux4 = 32 := by
  have h : ∀ v : Byte, v &&& 0x20 = 0 ∨ v &&& 0x20 = 32 := by decide
  exact h f[3]

/-- aux5 is a nibble. -/
theorem aux5_lt (f : Frame) : f.aux5.toNat < 16 := by
  have h : ∀ v : Byte, (v &&& 0x0F).toNat < 16 := by decide
  exact h f[4]

theorem rowIdC_hits (f : Frame) : rowIdC.hits f = true ↔ f.header = 160 ∧ f.aux5 = 0 := by
  rw [hits_iff rowIdC f 0xE0 0 0 0 0x0F 0xA0 0 0 0 0 (by decide) (by decide)]
  simp [Frame.header, Frame.aux5, Config.hdrMask, Config.aux5Mask]

theorem rowIdB0_hits (f : Frame) : rowIdB0.hits f = true ↔ f.header = 32 ∧ f.aux4 = 0 ∧ f.aux5 = 0 := by
  rw [hits_iff rowIdB0 f 0xE0 0 0 0x20 0x0F 0x20 0 0 0 0 (by decide) (by decide)]
  simp [Frame.header, Frame.aux4, Frame.aux5, Config.hdrMask, Config.aux4Mask, Config.aux5Mask]

/-- Masking a byte with all ones is the byte. -/
theorem and_ff (v : Byte) : v &&& 0xFF = v := by
  have h : ∀ v : Byte, v &&& 0xFF = v := by decide
  exact h v

theorem rowIdBesc_hits (f : Frame) : rowIdBesc.hits f = true ↔ f.header = 32 ∧ f[3] = 0xFF ∧ f[4] = 0xFF := by
  rw [hits_iff rowIdBesc f 0xE0 0 0 0xFF 0xFF 0x20 0 0 0xFF 0xFF (by decide) (by decide), and_ff, and_ff]
  simp [Frame.header, Config.hdrMask]

theorem rowIdA_hits (f : Frame) : rowIdA.hits f = true ↔ f.header = 32 ∧ f.aux5 = 15 := by
  rw [hits_iff rowIdA f 0xE0 0 0 0 0x0F 0x20 0 0 0 0x0F (by decide) (by decide)]
  simp [Frame.header, Frame.aux5, Config.hdrMask, Config.aux5Mask]

theorem rowNm192_hits (f : Frame) : rowNm192.hits f = true ↔ f.header = 192 := by
  rw [hits_iff rowNm192 f 0xE0 0 0 0 0 0xC0 0 0 0 0 (by decide) (by decide)]
  simp [Frame.header, Config.hdrMask]

theorem rowNm160_hits (f : Frame) : rowNm160.hits f = true ↔ f.header = 160 := by
  rw [hits_iff rowNm160 f 0xE0 0 0 0 0 0xA0 0 0 0 0 (by decide) (by decide)]
  simp [Frame.header, Config.hdrMask]

theorem rowNm32_hits (f : Frame) : rowNm32.hits f = true ↔ f.header = 32 := by
  rw [hits_iff rowNm32 f 0xE0 0 0 0 0 0x20 0 0 0 0 (by decide) (by decide)]
  simp [Frame.header, Config.hdrMask]

/-- The escape bytes force aux4 and aux5 (R64). -/
theorem aux_of_escape {f : Frame} (h3 : f[3] = 0xFF) (h4 : f[4] = 0xFF) : f.aux4 = 32 ∧ f.aux5 = 15 := by
  simp [Frame.aux4, Frame.aux5, h3, h4, Config.aux4Mask, Config.aux5Mask]

/-- The bytes of a frame, byte 0 first. -/
theorem Frame.toList_eq (f : Frame) : f.toList = [f[0], f[1], f[2], f[3], f[4]] := by
  obtain ⟨⟨l⟩, h⟩ := f
  match l, h with
  | [_, _, _, _, _], _ => rfl

/-- A frame is its five bytes. -/
theorem Frame.eta (f : Frame) : #v[f[0], f[1], f[2], f[3], f[4]] = f := by
  obtain ⟨⟨l⟩, h⟩ := f
  match l, h with
  | [_, _, _, _, _], _ => rfl

/-- Decoding a frame's bytes is decoding the frame. -/
@[simp] theorem decode_frame (f : Frame) : decode f.toList = .ok (decodeFrame f) := by
  rw [Frame.toList_eq]
  exact congrArg (fun g => Except.ok (decodeFrame g)) f.eta

/-- Inverting twice is the identity (R91). -/
@[simp] theorem Frame.invert_invert (r : Frame) : r.invert.invert = r := by
  ext i hi
  simp [Frame.invert]

end Sys2Proof
end

