-- ==== Sys2Proof/Laws/Memory.lean ====
section
/-! SUPPORT. The table space: reading back, the canonical form, and legality (20_memory.md R40 to R51, R122). -/

namespace Sys2Proof.Machine.Memory

@[simp] theorem read_nil (a : Nat) : read [] a = unlisted := rfl
@[simp] theorem read_cons (a : Nat) (v : Byte) (m : Memory) (x : Nat) :
    read ((a, v) :: m) x = if a = x then v else read m x := rfl

/-- Nothing is listed below the bound. -/
theorem read_below {m : Memory} {low x : Nat} (h : m.wfFrom low = true) (hx : x < low) : m.read x = unlisted := by
  induction m generalizing low with
  | nil => rfl
  | cons c m ih =>
    obtain ⟨a, v⟩ := c
    simp only [wfFrom, Bool.and_eq_true, decide_eq_true_eq] at h
    have : a ≠ x := by omega
    simp [this, ih h.2 (by omega)]

/-- A lower bound may be lowered. -/
theorem wfFrom_mono {m : Memory} {low low' : Nat} (h : m.wfFrom low = true) (hl : low' ≤ low) : m.wfFrom low' = true := by
  cases m with
  | nil => rfl
  | cons c m =>
    obtain ⟨a, v⟩ := c
    simp only [wfFrom, Bool.and_eq_true, decide_eq_true_eq] at h ⊢
    exact ⟨⟨⟨by omega, h.1.1.2⟩, h.1.2⟩, h.2⟩

/-- Storing a byte keeps the canonical form. -/
theorem insert_wfFrom {m : Memory} {low addr : Nat} (v : Byte) (h : m.wfFrom low = true) (hl : low ≤ addr) (hs : addr < size) :
    (m.insert addr v).wfFrom low = true := by
  induction m generalizing low with
  | nil => by_cases hv : v = unlisted <;> simp [insert, wfFrom, hv, hl, hs]
  | cons c m ih =>
    obtain ⟨a, w⟩ := c
    simp only [wfFrom, Bool.and_eq_true, decide_eq_true_eq, bne_iff_ne, ne_eq] at h
    obtain ⟨⟨⟨h1, h2⟩, h3⟩, h4⟩ := h
    simp only [insert]
    split
    · rename_i hlt
      by_cases hv : v = unlisted
      · simp [hv, wfFrom, h1, h2, h3, h4]
      · simp [hv, wfFrom, h2, h3, h4, hl, hs]; omega
    · split
      · rename_i _ heq
        by_cases hv : v = unlisted
        · simpa [hv] using wfFrom_mono h4 (by omega)
        · subst heq; simp [hv, wfFrom, h1, h2, h4]
      · rename_i hn hne
        simp [wfFrom, h1, h2, h3, ih h4 (by omega)]

/-- Storing a byte keeps the canonical form of the whole space. -/
theorem insert_wf {m : Memory} {addr : Nat} (v : Byte) (h : m.wf = true) (hs : addr < size) : (m.insert addr v).wf = true :=
  insert_wfFrom v h (by omega) hs

/-- Read after store. -/
theorem read_insert {m : Memory} {low addr : Nat} (v : Byte) (x : Nat) (h : m.wfFrom low = true) :
    (m.insert addr v).read x = if x = addr then v else m.read x := by
  induction m generalizing low with
  | nil =>
    by_cases hv : v = unlisted <;> by_cases hx : x = addr <;> simp [insert, hv, hx, eq_comm]
    intro h'; exact absurd h' (fun h' => hx h'.symm)
  | cons c m ih =>
    obtain ⟨a, w⟩ := c
    simp only [wfFrom, Bool.and_eq_true, decide_eq_true_eq] at h
    simp only [insert]
    split
    · rename_i hlt
      by_cases hv : v = unlisted
      · by_cases hx : x = addr
        · subst hx
          have hne : a ≠ x := by omega
          simp [hv, hne, read_below h.2 (show x < a + 1 by omega)]
        · simp [hv, hx]
      · by_cases hx : x = addr
        · simp [hv, hx]
        · have : addr ≠ x := fun h => hx h.symm
          simp [hv, hx, this]
    · split
      · rename_i _ heq
        subst heq
        by_cases hv : v = unlisted
        · by_cases hx : x = addr
          · subst hx; simp [hv, read_below h.2]
          · have : addr ≠ x := fun h => hx h.symm
            simp [hv, hx, this]
        · by_cases hx : x = addr
          · simp [hv, hx]
          · have : addr ≠ x := fun h => hx h.symm
            simp [hv, hx, this]
      · rename_i hn hne
        by_cases ha : a = x
        · subst ha
          have : ¬ a = addr := fun h => hne h.symm
          simp [this]
        · simp [ha, ih h.2]

/-- The address of a pair lies in the space. -/
theorem tableAddr_lt (v : Variant) (i : Fin 32) : tableAddr v i < size := by
  cases v <;> simp [tableAddr, Variant.code, size] <;> omega

/-- Different pairs are different addresses. -/
theorem tableAddr_inj {v w : Variant} {i j : Fin 32} (h : tableAddr v i = tableAddr w j) : v = w ∧ i = j := by
  cases v <;> cases w <;> simp only [tableAddr, Variant.code, true_and, reduceCtorEq, false_and] at h ⊢ <;> omega

/-- Every address of the space is some pair's. -/
theorem tableAddr_surj {a : Nat} (h : a < size) : ∃ v i, tableAddr v i = a := by
  have h' : a < 96 := h
  rcases Nat.lt_or_ge a 32 with h1 | h1
  · exact ⟨.a, ⟨a, h1⟩, by simp [tableAddr, Variant.code]⟩
  · rcases Nat.lt_or_ge a 64 with h2 | h2
    · exact ⟨.b, ⟨a - 32, by omega⟩, by simp [tableAddr, Variant.code]; omega⟩
    · exact ⟨.c, ⟨a - 64, by omega⟩, by simp [tableAddr, Variant.code]; omega⟩

/-- In a legal table space every entry is legal. -/
theorem legal_entry {m : Memory} (h : m.legal = true) (v : Variant) (i : Fin 32) :
    ∃ e, Entry.ofByte (m.read (tableAddr v i)) = some e := by
  have := List.all_eq_true.1 h (tableAddr v i) (List.mem_range.2 (tableAddr_lt v i))
  exact Option.isSome_iff_exists.1 this

end Sys2Proof.Machine.Memory
end

