-- ==== Sys2Proof/Laws/PerInstr.lean ====
section
/-! SUPPORT. Statements per instruction, proved constructor by constructor. EncodingShape: an encoding, where the instruction has
one, is one table byte or the five bytes of a frame (30_encoding.md R76, R85), and decoding accepts it. -/

namespace Sys2Proof.Laws.EncodingShape

/-- An encoding is one byte or five bytes long, and some instruction is decoded from it. -/
def Statement (i : Instr) : Prop :=
  ∀ bs : List Byte, encode i = some bs → (bs.length = 1 ∨ bs.length = 5) ∧ ∃ j, decode bs = .ok j

/-- An instruction with no encoding. -/
theorem of_none {i : Instr} (h : encode i = none) : Statement i := by
  intro bs hb
  rw [h] at hb
  cases hb

/-- An instruction encoded in one byte. -/
theorem of_byte {i : Instr} (v : Byte) (h : encode i = some [v]) : Statement i := by
  intro bs hb
  rw [h] at hb
  cases hb
  exact ⟨.inl rfl, _, rfl⟩

/-- An instruction encoded as its frame. -/
theorem of_frame {i : Instr} (f : Frame) (h : encode i = some f.toList) : Statement i := by
  intro bs hb
  rw [h] at hb
  cases hb
  exact ⟨.inr (by simp), _, decode_frame f⟩

theorem idC (f : Frame) : Statement (.idC f) := of_frame f rfl
theorem idB0 (f : Frame) : Statement (.idB0 f) := of_frame f rfl
theorem idBesc (f : Frame) : Statement (.idBesc f) := of_frame f rfl
theorem idA (f : Frame) : Statement (.idA f) := of_frame f rfl
theorem nm192 (f : Frame) : Statement (.nm192 f) := of_frame f rfl
theorem nm160 (f : Frame) : Statement (.nm160 f) := of_frame f rfl
theorem nm32 (f : Frame) : Statement (.nm32 f) := of_frame f rfl
theorem absent (f : Frame) : Statement (.absent f) := of_frame f rfl
theorem entryUnmapped : Statement .entryUnmapped := of_byte _ rfl
theorem entryButton0 : Statement .entryButton0 := of_byte _ rfl
theorem entryButton1 : Statement .entryButton1 := of_byte _ rfl
theorem entryButton2 : Statement .entryButton2 := of_byte _ rfl
theorem entryButton3 : Statement .entryButton3 := of_byte _ rfl
theorem entryButton4 : Statement .entryButton4 := of_byte _ rfl
theorem entryButton5 : Statement .entryButton5 := of_byte _ rfl
theorem entryButton6 : Statement .entryButton6 := of_byte _ rfl
theorem entryButton7 : Statement .entryButton7 := of_byte _ rfl
theorem entryButton8 : Statement .entryButton8 := of_byte _ rfl
theorem entryButton9 : Statement .entryButton9 := of_byte _ rfl
theorem entryButton10 : Statement .entryButton10 := of_byte _ rfl
theorem entryButton11 : Statement .entryButton11 := of_byte _ rfl
theorem entryButton12 : Statement .entryButton12 := of_byte _ rfl
theorem entryButton13 : Statement .entryButton13 := of_byte _ rfl
theorem entryButton14 : Statement .entryButton14 := of_byte _ rfl
theorem entryButton15 : Statement .entryButton15 := of_byte _ rfl
theorem entryButton16 : Statement .entryButton16 := of_byte _ rfl
theorem entryButton17 : Statement .entryButton17 := of_byte _ rfl
theorem entryButton18 : Statement .entryButton18 := of_byte _ rfl
theorem entryButton19 : Statement .entryButton19 := of_byte _ rfl
theorem entryButton20 : Statement .entryButton20 := of_byte _ rfl
theorem entryHatUp : Statement .entryHatUp := of_byte _ rfl
theorem entryHatDown : Statement .entryHatDown := of_byte _ rfl
theorem entryHatLeft : Statement .entryHatLeft := of_byte _ rfl
theorem entryHatRight : Statement .entryHatRight := of_byte _ rfl
theorem entryIllegal (v : Byte) : Statement (.entryIllegal v) := of_byte v rfl
theorem rdframe : Statement .rdframe := of_none rfl
theorem invert : Statement .invert := of_none rfl
theorem observe : Statement .observe := of_none rfl
theorem classify : Statement .classify := of_none rfl
theorem idstep : Statement .idstep := of_none rfl
theorem loadvar (v : Variant) : Statement (.loadvar v) := of_none rfl
theorem skip : Statement .skip := of_none rfl
theorem lookup (k : Fin 4) (b : Fin 8) : Statement (.lookup k b) := of_none rfl
theorem scan : Statement .scan := of_none rfl
theorem routeBtn (b : Fin 21) (cur : Bool) : Statement (.routeBtn b cur) := of_none rfl
theorem routeHat (d : Dir) (cur : Bool) : Statement (.routeHat d cur) := of_none rfl
theorem routeDrop : Statement .routeDrop := of_none rfl
theorem synb : Statement .synb := of_none rfl
theorem commit : Statement .commit := of_none rfl
theorem hatconv (d : Dir) : Statement (.hatconv d) := of_none rfl
theorem poll : Statement .poll := of_none rfl
theorem press (b : Fin 21) : Statement (.press b) := of_none rfl
theorem release (b : Fin 21) : Statement (.release b) := of_none rfl
theorem sethat (v : HatVal) : Statement (.sethat v) := of_none rfl
theorem flush : Statement .flush := of_none rfl
theorem backoff : Statement .backoff := of_none rfl
theorem safereset : Statement .safereset := of_none rfl
theorem poreset : Statement .poreset := of_none rfl

end Sys2Proof.Laws.EncodingShape
end

