-- ==== Sys2Proof/Laws/Poll.lean ====
section
/-! SUPPORT. What a step can do, said once: the three paths of a cycle, each with the state it ends in (45_poll_cycle_and_sink.md R155). -/

namespace Sys2Proof.Machine

/-- The state in which IDSTEP runs: the frame is read and classified. -/
def classified (s : State) : State := (fetched s).withLoc { (fetched s).loc with cls := pollClass s }

/-- The state in which a diff cycle's SCAN runs: the variant is held and the path is chosen. -/
def scanStart (v : Variant) (s : State) : State := takePath .diff ((classified s).withVar (.held v))

/-- What a diff cycle does after SCAN: the synthetic button, COMMIT, FLUSH. -/
def afterScan (u : State) : State :=
  let w := if u.var = .held .b ∧ u.syn ≠ u.synPrev then (setButton u.params.synButton u.syn u).withSynPrev u.syn else u
  emit .flush (clearSafe (w.withPrev w.loc.f.data))

/-- Where an absent cycle ends. -/
def afterAbsent (s : State) : State :=
  takePath .absentPath ((if s.safe then classified s else enterSafeState (classified s)).withVar .absent)

/-- Where a skipped cycle ends. -/
def afterSkip (s : State) : State := takePath .skip (classified s)

/-- Reading and classifying always complete. -/
theorem poll_eq (s : State) (h : s.configOk = true) : step s = actOnClass (classified s) := by
  simp only [step, exec, execPoll, h, if_true, readFrame_eq, andThen_next, execClassify]
  rfl

/-- The tail of a diff cycle always completes. -/
theorem diffTail_eq (u : State) :
    (andThen (execSynb u) fun w => andThen (execCommit w) execFlush) = .next (afterScan u) := by
  unfold execSynb afterScan
  split <;> rfl

/-- An absent cycle. -/
theorem step_absent {s : State} (h : s.configOk = true) (hc : pollClass s = .absent) : step s = .next (afterAbsent s) := by
  have hl : (classified s).loc.cls = .absent := hc
  have hs : (classified s).safe = s.safe := rfl
  rw [poll_eq s h]
  cases hb : s.safe <;> simp [actOnClass, execIdstep, hl, hs, hb, execSafereset, runPath, takePath, execBackoff, afterAbsent]

/-- A skipped cycle. -/
theorem step_skipped {s : State} (h : s.configOk = true) (hk : Skipped s) : step s = .next (afterSkip s) := by
  rw [poll_eq s h]
  rcases hk with hc | ⟨v, w, hc, hv, hne⟩
  · have hl : (classified s).loc.cls = .noMatch := hc
    simp [actOnClass, execIdstep, hl, runPath, takePath, execSkip, afterSkip]
  · have hl : (classified s).loc.cls = .matched w := hc
    have hv' : (classified s).var = .held v := hv
    have hvw : ¬ v = w := fun e => hne e.symm
    simp [actOnClass, execIdstep, hl, hv', hvw, runPath, takePath, execSkip, afterSkip]

/-- A diff cycle. -/
theorem step_diff {s : State} {v : Variant} (h : s.configOk = true) (hd : DiffFor v s) :
    step s = andThen (execScan (scanStart v s)) fun u => .next (afterScan u) := by
  obtain ⟨hc, hv⟩ := hd
  have hl : (classified s).loc.cls = .matched v := hc
  have hi : execIdstep (classified s) = .next (scanStart v s) := by
    rcases hv with hv | hv
    · have hv' : (classified s).var = .absent := hv
      simp [execIdstep, hl, hv', execLoadvar, holdVariant, scanStart]
    · have hv' : (classified s).var = .held v := hv
      have he : (classified s).withVar (.held v) = classified s := by rw [← hv']; rfl
      simp [execIdstep, hl, hv', scanStart, he]
  rw [poll_eq s h, actOnClass, hi]
  simp only [andThen_next, runPath]
  show (andThen (execScan (scanStart v s)) fun t => andThen (execSynb t) fun w => andThen (execCommit w) execFlush) = _
  congr 1
  funext t
  exact diffTail_eq t

/-- Every cycle is absent, skipped, or a diff cycle for one variant. -/
theorem cycle_cases (s : State) : pollClass s = .absent ∨ Skipped s ∨ ∃ v, DiffFor v s := by
  cases hc : pollClass s with
  | absent => exact .inl rfl
  | noMatch => exact .inr (.inl (.inl hc))
  | matched w =>
    cases hv : s.var with
    | absent => exact .inr (.inr ⟨w, hc, .inl hv⟩)
    | held v =>
      by_cases he : v = w
      · exact .inr (.inr ⟨w, hc, .inr (by rw [hv, he])⟩)
      · exact .inr (.inl (.inr ⟨v, w, hc, hv, fun e => he e.symm⟩))

/-- What a step that completes did: the configuration was well formed, and one of the three paths ran. -/
theorem step_cases {s t : State} (h : step s = .next t) :
    s.configOk = true ∧
    ((pollClass s = .absent ∧ t = afterAbsent s) ∨ (Skipped s ∧ t = afterSkip s) ∨
      ∃ v, DiffFor v s ∧ ∃ u, execScan (scanStart v s) = .next u ∧ t = afterScan u) := by
  have hcfg : s.configOk = true := by
    by_contra hn
    simp [step, exec, execPoll, hn] at h
  refine ⟨hcfg, ?_⟩
  rcases cycle_cases s with hc | hk | ⟨v, hd⟩
  · rw [step_absent hcfg hc] at h; cases h; exact .inl ⟨hc, rfl⟩
  · rw [step_skipped hcfg hk] at h; cases h; exact .inr (.inl ⟨hk, rfl⟩)
  · rw [step_diff hcfg hd] at h
    obtain ⟨u, hu, ht⟩ := andThen_eq_next.1 h
    cases ht
    exact .inr (.inr ⟨v, hd, u, hu, rfl⟩)

end Sys2Proof.Machine
end

