-- ==== Sys2Proof/Tests/Slice0.lean ====
section
/-! SUPPORT. Tests, each about one step or one operation. Expected values come from the spec: the encodings of 30_encoding.md and
opcode_table.json written out, and the vectors of 95_test_vectors.md with its fixture tables (the spec's own, not the real ones). -/

namespace Sys2Proof.Tests

open Sys2Proof.Machine

/-! ### Fixtures (95_test_vectors.md) -/

/-- `TT_A` as bytes of R76: 255 is `U`, 32 to 35 are Up, Dn, Lf, Rt. -/
def ttA : List Nat :=
  [1, 2, 0, 3, 4, 255, 255, 255, 32, 33, 34, 35, 5, 6, 7, 8] ++ [9, 10, 11, 12, 13, 14, 15, 16, 17, 18, 19, 20, 255, 255, 255, 255]

/-- `TT_B`. -/
def ttB : List Nat :=
  [2, 1, 3, 0, 4, 255, 255, 255, 5, 6, 7, 8, 9, 10, 11, 12] ++ [32, 33, 34, 35, 255, 13, 14, 15, 16, 17, 18, 19, 255, 255, 255, 255]

/-- `TT_C`. -/
def ttC : List Nat :=
  [1, 2, 3, 4, 5, 255, 255, 255, 35, 34, 33, 32, 6, 7, 8, 9] ++ [10, 11, 12, 13, 14, 15, 16, 17, 18, 19, 20, 0, 255, 255, 255, 255]

/-- The cells of a table at a base address, in canonical form. -/
def cells (base : Nat) (es : List Nat) : Memory :=
  es.zipIdx.filterMap fun x => if x.1 = 255 then none else some (base + x.2, BitVec.ofNat 8 x.1)

/-- The power-on state with the three fixture tables. -/
def full : State := { State.reset with rom := cells 0 ttA ++ cells 32 ttB ++ cells 64 ttC }

/-- The power-on state with the fixture table of one variant; the two others hold `Unmapped` only, which keeps the tests short. -/
def fxOf : Variant → State
  | .a => { State.reset with rom := cells 0 ttA }
  | .b => { State.reset with rom := cells 32 ttB }
  | .c => { State.reset with rom := cells 64 ttC }

/-- The power-on state with `TT_A`. -/
def fx : State := fxOf .a

/-- A variant held, with its fixture table and a previous frame. -/
def held (v : Variant) (b0 b1 b2 b3 : Byte) : State := { fxOf v with var := .held v, prev := #v[b0, b1, b2, b3] }

/-- The fixture in the safe state. -/
def safeFx : State := { fx with safe := true }

/-- One poll whose corrected frame is given. -/
def poll (s : State) (b0 b1 b2 b3 b4 : Byte) : Result := step (s.presentFrame #v[b0, b1, b2, b3, b4])

/-- The next state, if there is one. -/
def next? : Result → Option State
  | .next s => some s
  | .fault _ => none
  | .refused _ => none

/-- The events of a step. -/
def events? (r : Result) : Option (List Event) := (next? r).map State.events

/-- A register of the next state. -/
def get? {α : Type} (f : State → α) (r : Result) : Option α := (next? r).map f

/-- The fault of a step, if it ended in one. -/
def fault? : Result → Option Fault
  | .next _ => none
  | .fault x => some x
  | .refused _ => none

/-- The refusal of a step, if it ended in one. -/
def refusal? : Result → Option Refusal
  | .next _ => none
  | .fault _ => none
  | .refused x => some x

theorem next_exists {r : Result} (h : (next? r).isSome = true) : ∃ t, r = .next t := by
  cases r with
  | next t => exact ⟨t, rfl⟩
  | fault x => cases h
  | refused x => cases h

/-- The 23 events of V-RST row 2, written out. -/
def resetBurst : List Event :=
  [.release 0, .release 1, .release 2, .release 3, .release 4, .release 5, .release 6, .release 7, .release 8, .release 9, .release 10] ++
  [.release 11, .release 12, .release 13, .release 14, .release 15, .release 16, .release 17, .release 18, .release 19, .release 20] ++
  [.setHat 0, .flush]

/-! ### WellFormed refuses ill-formed terms -/

theorem test_wf_idC : (Instr.idC #v[0xA0, 0, 0, 0, 0x01]).wf = false := by decide
theorem test_wf_idB0 : (Instr.idB0 #v[0x20, 0, 0, 0x20, 0x00]).wf = false := by decide
theorem test_wf_idBesc : (Instr.idBesc #v[0x20, 0, 0, 0xFE, 0xFF]).wf = false := by decide
theorem test_wf_idA : (Instr.idA #v[0x20, 0, 0, 0xFF, 0xFF]).wf = false := by decide
theorem test_wf_nm192 : (Instr.nm192 #v[0xA0, 0, 0, 0, 0x01]).wf = false := by decide
theorem test_wf_nm160 : (Instr.nm160 #v[0xA0, 0, 0, 0, 0x00]).wf = false := by decide
theorem test_wf_nm32 : (Instr.nm32 #v[0x20, 0, 0, 0, 0x0F]).wf = false := by decide
theorem test_wf_absent : (Instr.absent #v[0xC0, 0, 0, 0, 0]).wf = false := by decide
theorem test_wf_entryIllegal : (Instr.entryIllegal 0x05).wf = false ∧ (Instr.entryIllegal 0x15).wf = true := by decide
theorem test_wf_hatCentered : (Params.reset.wf = true) ∧ (({ Params.reset with hatCentered := 3 } : Params).wf = false) := by decide
theorem test_wf_memory : Memory.wf [(3, 1), (2, 1)] = false ∧ Memory.wf [(3, 0xFF)] = false ∧ Memory.wf [(96, 1)] = false ∧
    Memory.wf [(0, 1), (95, 0)] = true := by decide

/-! ### Decoding: words written out from the encodings -/

/-- V-ID: frames of every row with the row they match. -/
theorem test_decode_frames :
    decode [0xA0, 0x00, 0x00, 0x00, 0x00] = .ok (.idC #v[0xA0, 0x00, 0x00, 0x00, 0x00]) ∧
    decode [0xBF, 0x12, 0x34, 0x56, 0x70] = .ok (.idC #v[0xBF, 0x12, 0x34, 0x56, 0x70]) ∧
    decode [0x20, 0x00, 0x00, 0x00, 0x00] = .ok (.idB0 #v[0x20, 0x00, 0x00, 0x00, 0x00]) ∧
    decode [0x3F, 0xFF, 0xFF, 0xDF, 0xF0] = .ok (.idB0 #v[0x3F, 0xFF, 0xFF, 0xDF, 0xF0]) ∧
    decode [0x20, 0x00, 0x00, 0xFF, 0xFF] = .ok (.idBesc #v[0x20, 0x00, 0x00, 0xFF, 0xFF]) ∧
    decode [0x20, 0x00, 0x00, 0xFE, 0xFF] = .ok (.idA #v[0x20, 0x00, 0x00, 0xFE, 0xFF]) ∧
    decode [0x20, 0x00, 0x00, 0xFF, 0xEF] = .ok (.idA #v[0x20, 0x00, 0x00, 0xFF, 0xEF]) ∧
    decode [0xC0, 0x00, 0x00, 0x00, 0x00] = .ok (.nm192 #v[0xC0, 0x00, 0x00, 0x00, 0x00]) ∧
    decode [0xA0, 0x00, 0x00, 0x00, 0x01] = .ok (.nm160 #v[0xA0, 0x00, 0x00, 0x00, 0x01]) ∧
    decode [0x20, 0x00, 0x00, 0x20, 0x00] = .ok (.nm32 #v[0x20, 0x00, 0x00, 0x20, 0x00]) ∧
    decode [0x20, 0x00, 0x00, 0x00, 0x07] = .ok (.nm32 #v[0x20, 0x00, 0x00, 0x00, 0x07]) ∧
    decode [0x1F, 0xFF, 0xFF, 0xFF, 0xFF] = .ok (.absent #v[0x1F, 0xFF, 0xFF, 0xFF, 0xFF]) ∧
    decode [0xFF, 0xFF, 0xFF, 0xFF, 0xFF] = .ok (.absent #v[0xFF, 0xFF, 0xFF, 0xFF, 0xFF]) := by decide

/-- R76, R77: the entry bytes. -/
theorem test_decode_buttons :
    ([0x00, 0x01, 0x02, 0x03, 0x04, 0x05, 0x06, 0x07, 0x08, 0x09, 0x0A] : List Byte).map (fun v => decode [v]) =
      [.ok .entryButton0, .ok .entryButton1, .ok .entryButton2, .ok .entryButton3, .ok .entryButton4, .ok .entryButton5,
       .ok .entryButton6, .ok .entryButton7, .ok .entryButton8, .ok .entryButton9, .ok .entryButton10] ∧
    ([0x0B, 0x0C, 0x0D, 0x0E, 0x0F, 0x10, 0x11, 0x12, 0x13, 0x14] : List Byte).map (fun v => decode [v]) =
      [.ok .entryButton11, .ok .entryButton12, .ok .entryButton13, .ok .entryButton14, .ok .entryButton15, .ok .entryButton16,
       .ok .entryButton17, .ok .entryButton18, .ok .entryButton19, .ok .entryButton20] := by decide
theorem test_decode_other_entries :
    ([0xFF, 0x20, 0x21, 0x22, 0x23] : List Byte).map (fun v => decode [v]) =
      [.ok .entryUnmapped, .ok .entryHatUp, .ok .entryHatDown, .ok .entryHatLeft, .ok .entryHatRight] ∧
    ([0x15, 0x1F, 0x24, 0x7F, 0x80, 0xFE] : List Byte).map (fun v => decode [v]) =
      [.ok (.entryIllegal 0x15), .ok (.entryIllegal 0x1F), .ok (.entryIllegal 0x24), .ok (.entryIllegal 0x7F),
       .ok (.entryIllegal 0x80), .ok (.entryIllegal 0xFE)] := by decide
theorem test_decode_rejects : decode [] = .error (.badLength 0) ∧ decode [1, 2, 3, 4] = .error (.badLength 4) ∧
    decode [1, 2, 3, 4, 5, 6] = .error (.badLength 6) := by decide
theorem test_tableWord : decodeTableWord 40 0xA000000000 = some (.idC #v[0xA0, 0, 0, 0, 0]) ∧
    decodeTableWord 8 0x14 = some .entryButton20 ∧ decodeTableWord 8 0xFF = some .entryUnmapped ∧ decodeTableWord 0 0 = none := by decide
theorem test_encode : encode (.idA #v[0x20, 0, 0, 0, 0x0F]) = some [0x20, 0, 0, 0, 0x0F] ∧ encode .entryHatRight = some [0x23] ∧
    encode .poll = none := by decide

/-! ### One operation at a time -/

/-- The results of R101 to R106, each row run as an instruction. -/
theorem test_rows_identify : get? (·.loc.cls) (exec (.idC #v[0xA0, 0, 0, 0, 0]) fx) = some (.matched .c) ∧
    get? (·.loc.cls) (exec (.idB0 #v[0x20, 0, 0, 0, 0]) fx) = some (.matched .b) ∧
    get? (·.loc.cls) (exec (.idBesc #v[0x20, 0, 0, 0xFF, 0xFF]) fx) = some (.matched .b) ∧
    get? (·.loc.cls) (exec (.idA #v[0x20, 0, 0, 0, 0x0F]) fx) = some (.matched .a) := by decide
theorem test_rows_no_match : get? (·.loc.cls) (exec (.nm192 #v[0xC0, 0, 0, 0, 0]) fx) = some .noMatch ∧
    get? (·.loc.cls) (exec (.nm160 #v[0xA0, 0, 0, 0, 1]) fx) = some .noMatch ∧
    get? (·.loc.cls) (exec (.nm32 #v[0x20, 0, 0, 0, 7]) fx) = some .noMatch ∧
    get? (·.loc.cls) (exec (.absent #v[0x60, 0, 0, 0, 0]) fx) = some .absent := by decide

/-- V-ID rows by CLASSIFY: the escape pattern, its two near misses, the gap of NM_32, the retracted example. -/
theorem test_classify :
    ([#v[0x20, 0, 0, 0xFF, 0xFF], #v[0x20, 0, 0, 0xFE, 0xFF], #v[0x3F, 0xFF, 0xFF, 0xFF, 0x0F], #v[0x20, 0, 0, 0x20, 0],
      #v[0xA0, 0, 0, 0xFF, 0xF0], #v[0x20, 0, 0, 0, 0x0E], #v[0, 0, 0, 0x20, 0x0F], #v[0x80, 0, 0, 0, 0]] : List Frame).map
        (fun f => get? (·.loc.cls) (exec .classify (fx.withLoc { fx.loc with f := f }))) =
      [some (.matched .b), some (.matched .a), some (.matched .a), some .noMatch, some (.matched .c), some .noMatch,
       some .absent, some .absent] := by decide

/-- R91's example, and R91's remark on the source's retracted one (V-INV). -/
theorem test_invert :
    get? (·.loc.f) (exec .invert (fx.withLoc { fx.loc with raw := #v[0xDF, 0xFF, 0xFF, 0xFF, 0xF0] })) =
      some #v[0x20, 0x00, 0x00, 0x00, 0x0F] ∧
    get? (·.loc.f) (exec .invert (fx.withLoc { fx.loc with raw := #v[0xFF, 0xFF, 0xFF, 0xDF, 0xF0] })) =
      some #v[0x00, 0x00, 0x00, 0x20, 0x0F] := by decide

/-- R90: the frame on the bus is read once. -/
theorem test_rdframe : get? (fun t => (t.loc.raw, t.bus)) (exec .rdframe (fx.withBus [#v[1, 2, 3, 4, 5], #v[6, 7, 8, 9, 10]])) =
    some (#v[1, 2, 3, 4, 5], [#v[6, 7, 8, 9, 10]]) := by decide

/-- R94, R110, R133, R161: nothing. -/
theorem test_no_effect : exec .observe fx = .next fx ∧ exec .skip fx = .next fx ∧ exec .routeDrop fx = .next fx ∧
    exec .backoff fx = .next fx := ⟨rfl, rfl, rfl, rfl⟩

/-- The example of R121: LOOKUP(A, 0, 0), (A, 1, 0), (A, 0, 5). -/
theorem test_lookup : get? (·.loc.entry) (exec (.lookup 0 0) (held .a 0 0 0 0)) = some (.button 1) ∧
    get? (·.loc.entry) (exec (.lookup 1 0) (held .a 0 0 0 0)) = some (.hat .up) ∧
    get? (·.loc.entry) (exec (.lookup 0 5) (held .a 0 0 0 0)) = some .unmapped := by decide
theorem test_lookup_absent : fault? (exec (.lookup 3 7) fx) = some .noTableForAbsent := by decide

/-- R109's example: only `VAR` is written; R22: a held variant is not replaced. -/
theorem test_loadvar : get? (·.var) (exec (.loadvar .a) fx) = some (.held .a) ∧
    fault? (exec (.loadvar .b) (held .a 0 0 0 0)) = some .variantAlreadyHeld := by decide

/-- R131's example: `BTN[1] <- 0`, `release(1)`. -/
theorem test_routeBtn : get? (fun t => (t.btn[1], t.events)) (exec (.routeBtn 1 false) (fx.withBtn 1 true)) =
    some (false, [.release 1]) := by decide

/-- R132's example, and corner case (a): a clearing bit centres whatever was active. -/
theorem test_routeHat : get? (fun t => (t.hat, t.events)) (exec (.routeHat .up true) fx) = some (1, [.setHat 1]) ∧
    get? (fun t => (t.hat, t.events)) (exec (.routeHat .up false) (fx.withHat 5)) = some (0, [.setHat 0]) := by decide

/-- V-HAT. -/
theorem test_hatconv : ([.up, .down, .left, .right] : List Dir).map (fun d => get? (·.loc.code) (exec (.hatconv d) fx)) =
    [some 1, some 3, some 5, some 7] := by decide

/-- R134's example: 0x00 to 0x10 presses button 20; 0x10 to 0x11 releases it. -/
theorem test_synb_press : get? (fun t => (t.events, t.synPrev, t.btn[20]))
    (exec .synb ((held .b 0x20 0 0 0).withLoc { fx.loc with f := #v[0x20, 0, 0x10, 0, 0] })) = some ([.press 20], true, true) := by decide
theorem test_synb_release : get? (fun t => (t.events, t.synPrev, t.btn[20]))
    (exec .synb (((held .b 0x20 0 0x10 0).withSynPrev true).withLoc { fx.loc with f := #v[0x20, 0, 0x11, 0, 0] })) =
    some ([.release 20], false, false) := by decide

/-- R135's example. -/
theorem test_commit : get? (fun t => (t.prev, t.safe)) (exec .commit (safeFx.withLoc { fx.loc with f := #v[0x21, 0, 0, 0, 0x0F] })) =
    some (#v[0x21, 0, 0, 0], false) := by decide

/-- R130's example: bit 1 of byte 0 is visited before bit 0. -/
theorem test_scan : events? (exec .scan ((held .a 0x20 0 0 0).withLoc { fx.loc with f := #v[0x23, 0, 0, 0, 0x0F] })) =
    some [.press 2, .press 1] := by decide

/-- V-SINK: what the reference sink has sent after press(1), setHat(5), flush. -/
theorem test_sink : ([.press 1, .setHat 5, .flush, .release 1, .flush] : List Event).foldl Sink.apply Sink.reset =
    { rep := { rb := Vector.replicate 21 false, rh := 5 },
      sent := [{ rb := (Vector.replicate 21 false).set 1 true, rh := 5 }, { rb := Vector.replicate 21 false, rh := 5 }] } := by decide
theorem test_press_release : get? (fun t => (t.btn[3], t.events)) (exec (.press 3) fx) = some (true, [.press 3]) ∧
    get? (fun t => (t.btn[3], t.events)) (exec (.release 3) (fx.withBtn 3 true)) = some (false, [.release 3]) := by decide
theorem test_sethat : get? (fun t => (t.hat, t.events)) (exec (.sethat (.dir .left)) fx) = some (5, [.setHat 5]) ∧
    get? (fun t => (t.hat, t.events)) (exec (.sethat .centered) (fx.withHat 5)) = some (0, [.setHat 0]) := by decide
theorem test_flush : get? (fun t => (t.events, t.sink.sent)) (exec .flush fx) = some ([.flush], [Sink.reset.rep]) := by decide

/-- V-RST rows 2 and 1, as operations. -/
theorem test_safereset : get? (fun t => (t.events, t.prev, t.hat, t.btn[3])) (exec .safereset (((held .c 0xA4 2 0 0).withBtn 3 true).withHat 5)) =
    some (resetBurst, #v[0, 0, 0, 0], 0, false) := by decide
theorem test_poreset : get? (fun t => (t.var, t.safe, t.prev, t.hat, t.events))
    (exec .poreset (((held .c 0xA4 2 0 0).withHat 5).withEvents [.flush])) = some (.absent, false, #v[0, 0, 0, 0], 0, []) ∧
    get? (fun t => (t.synPrev, t.btn[3])) (exec .poreset ((fx.withBtn 3 true).withSynPrev true)) = some (false, false) := by decide

/-- The entry rows act on the bit at the scan position (R131, R132): at reset the position is bit 7 of byte 0. -/
theorem test_entry_rows : events? (exec .entryButton7 (fx.withLoc { fx.loc with f := #v[0x80, 0, 0, 0, 0] })) = some [.press 7] ∧
    events? (exec .entryButton7 (fx.withLoc { fx.loc with f := #v[0x7F, 0, 0, 0, 0] })) = some [.release 7] ∧
    events? (exec .entryHatDown (fx.withLoc { fx.loc with f := #v[0x80, 0, 0, 0, 0] })) = some [.setHat 3] ∧
    events? (exec .entryUnmapped (fx.withLoc { fx.loc with f := #v[0x80, 0, 0, 0, 0] })) = some [] ∧
    refusal? (exec (.entryIllegal 0x15) fx) = some .illFormedConfig := by decide

/-- V-FSM as IDSTEP: rows 5 (LOADVAR and diff), 7 (another variant is held: skip). -/
theorem test_idstep : get? (fun t => (t.var, t.loc.path)) (exec .idstep (safeFx.withLoc { fx.loc with cls := .matched .a })) =
      some (.held .a, .diff) ∧
    get? (fun t => (t.var, t.loc.path)) (exec .idstep ((held .a 0x22 0 0 0).withLoc { fx.loc with cls := .matched .c })) =
      some (.held .a, .skip) := by decide

/-! ### One poll at a time -/

/-- V-FSM row 1: an absent frame at power-on. -/
theorem test_poll_fsm1 : get? (fun t => (t.events, t.var, t.safe)) (poll fx 0 0 0 0 0) =
    some (resetBurst, .absent, true) := by decide
/-- V-FSM row 2: no second reset. -/
theorem test_poll_fsm2 : get? (fun t => (t.events, t.safe)) (poll safeFx 0 0 0 0 0) =
    some ([], true) := by decide
/-- V-FSM row 6: identification from reset. -/
theorem test_poll_fsm6 : get? (fun t => (t.events, t.var, t.prev, t.btn[1])) (poll fx 0x21 0 0 0 0x0F) =
    some ([.press 1, .flush], .held .a, #v[0x21, 0, 0, 0], true) := by decide
/-- V-FSM row 8: the escape pattern while A is held is skipped. -/
theorem test_poll_fsm8 : get? (fun t => (t.events, t.var, t.prev)) (poll (held .a 0x22 0 0 0) 0x22 0 0 0xFF 0xFF) =
    some ([], .held .a, #v[0x22, 0, 0, 0]) := by decide
/-- V-FSM row 10: absence drops the variant and releases. -/
theorem test_poll_fsm10 : get? (fun t => (t.events, t.var, t.safe, t.prev, t.btn[2])) (poll ((held .a 0x22 0 0 0).withBtn 2 true) 0x60 0 0 0 0) =
    some (resetBurst, .absent, true, #v[0, 0, 0, 0], false) := by decide
/-- V-SCAN row 11: two hat bits in one cycle, the later visit decides. -/
theorem test_poll_scan11 : get? (fun t => (t.events, t.hat)) (poll ((held .a 0x20 1 0 0).withHat 1) 0x20 4 0 0 0x0F) =
    some ([.setHat 5, .setHat 0, .flush], 0) := by decide
/-- V-SCAN row 16. -/
theorem test_poll_scan16 : events? (poll (held .a 0x20 0 0 0) 0x20 0x80 0x01 0x08 0x0F) =
    some [.press 8, .press 9, .press 20, .flush] := by decide
/-- V-SYN row 3: a guard bit releases the synthetic button after the scan's event. -/
theorem test_poll_syn3 : get? (fun t => (t.events, t.synPrev)) (poll ((held .b 0x20 0 0x10 0).withSynPrev true) 0x20 0 0x11 0 0) =
    some ([.setHat 1, .release 20, .flush], false) := by decide
/-- P3 cycle 10: the escape pattern's byte 3 is diffed against zero. -/
theorem test_poll_p3_cycle10 : get? (fun t => (t.events, t.var, t.prev)) (poll ((fxOf .b).withSafe true) 0x20 0 0x10 0xFF 0xFF) =
    some ([.press 19, .press 18, .press 17, .press 16, .press 20, .flush], .held .b, #v[0x20, 0, 0x10, 0xFF]) := by decide

/-- R122: a table with an illegal entry, or `HAT_CENTERED` in 1..8, is refused before anything is read. -/
theorem test_poll_refuses : 
    refusal? (poll { fx with rom := fx.rom.provide .c 31 0x15 } 0x21 0 0 0 0x0F) = some .illFormedConfig ∧
    refusal? (poll { fx with params := { fx.params with hatCentered := 8 } } 0x21 0 0 0 0x0F) = some .illFormedConfig := by decide

/-- The host's fetch: a frame word is the next frame; an entry byte is what the next diff cycle looks up. -/
theorem test_fetch_frame : get? (fun t => (t.loc.cls, t.var)) (step (State.reset.withFetchWord 40 0xA000000000)) =
    some (.matched .c, .held .c) := by decide
theorem test_fetch_entry : events? (step (State.reset.withFetchWord 8 0x14)) = some [.press 20, .flush] ∧
    events? (step (State.reset.withFetchWord 8 0x22)) = some [.setHat 5, .flush] ∧
    events? (step (State.reset.withFetchWord 8 0xFF)) = some [.flush] ∧
    refusal? (step (State.reset.withFetchWord 8 0x15)) = some .illFormedConfig := by decide

/-- The fixtures meet R122 and the canonical form. -/
theorem test_fixture_ok : full.configOk = true ∧ full.rom.wf = true := by decide

/-! ### Witnesses: for each obligation with hypotheses, a concrete input that meets them -/

theorem witness_DecodeOfEncode : (Instr.idBesc #v[0x20, 1, 2, 0xFF, 0xFF]).wf = true ∧ encode (.idBesc #v[0x20, 1, 2, 0xFF, 0xFF]) = some [0x20, 1, 2, 0xFF, 0xFF] ∧
    (Instr.entryIllegal 0xFE).wf = true ∧ encode (.entryIllegal 0xFE) = some [0xFE] := by decide
theorem witness_EncodeOfDecode : decode [0x20] = .ok .entryHatUp ∧ decode [0x20, 0, 0, 0, 1] = .ok (.nm32 #v[0x20, 0, 0, 0, 1]) := by decide
theorem witness_DecodeRejectsOtherLengths : ([0, 0, 0, 0] : List Byte).length ≠ 1 ∧ ([0, 0, 0, 0] : List Byte).length ≠ 5 := by decide
theorem witness_EveryFrameIsInExactlyOneSet : WellFormed.setIdC #v[0xA0, 0, 0, 0xFF, 0xF0] = true ∧ WellFormed.setIdB0 #v[0x3F, 0, 0, 0xDF, 0xF0] = true ∧
    WellFormed.setIdBesc #v[0x20, 0, 0, 0xFF, 0xFF] = true ∧ WellFormed.setIdA #v[0x20, 0, 0, 0xFF, 0xEF] = true ∧
    WellFormed.setNm192 #v[0xDF, 0, 0, 0, 0] = true ∧ WellFormed.setNm160 #v[0xA0, 0, 0, 0, 0x0F] = true ∧
    WellFormed.setNm160 #v[0xA0, 0, 0, 0, 1] = true ∧ WellFormed.setNm32 #v[0x20, 0, 0, 0, 1] = true ∧
    WellFormed.setNm32 #v[0x20, 0, 0, 0, 0x0E] = true ∧ WellFormed.setNm32 #v[0x20, 0, 0, 0x20, 0] = true ∧
    WellFormed.setAbsent #v[0xFF, 0xFF, 0xFF, 0xFF, 0xFF] = true ∧ WellFormed.setAbsent #v[0, 0, 0, 0, 0] = true := by decide
theorem witness_EscapeDominatesVariantA : (fx.withLoc { fx.loc with f := #v[0x3F, 0, 0, 0xFF, 0xFF] }).loc.f[0] &&& 0xE0 = 32 ∧
    (0xEF : Byte) &&& 0x0F = 15 ∧ ¬ ((0xFF : Byte) = 0xFF ∧ (0xEF : Byte) = 0xFF) := by decide
theorem witness_RdframeTakesTheNextFrame : (fx.withBus [#v[1, 2, 3, 4, 5]]).bus = #v[1, 2, 3, 4, 5] :: [] ∧ fx.bus = [] := by decide
theorem witness_LookupReadsTheHeldTable : (held .c 0 0 0 0).var = .held .c ∧ Entry.ofByte ((held .c 0 0 0 0).tblByte .c (linearIndex 3 3)) = some (.button 0) ∧
    Entry.ofByte ((held .c 0 0 0 0).tblByte .c (linearIndex 3 7)) = some .unmapped := by decide
/-- VariantA held over a table with an illegal byte, 36, at its last index. -/
def badTable : State := { held .a 0 0 0 0 with rom := (held .a 0 0 0 0).rom.provide .a 31 0x24 }

theorem witness_LookupStopsWithoutATableOrEntry : fx.var = .absent ∧ badTable.var = .held .a ∧ Entry.ofByte (badTable.tblByte .a (linearIndex 3 7)) = none := by decide
theorem witness_ProvidedEntryReadsBackAlone : fx.rom.wf = true ∧ ((Variant.b, (0 : Fin 32)) ≠ (Variant.a, (31 : Fin 32))) ∧ 95 < Memory.size ∧ ¬ 96 < Memory.size := by decide
theorem witness_NoInstructionWritesTheConfiguration : exec .skip fx = .next fx := rfl
theorem witness_IllegalEntriesAreRefused : ([0x15, 0x1F, 0x24, 0xFE] : List Byte).map (fun v => (({ fx with rom := fx.rom.provide .a 0 v } : State).tblByte .a 0).toNat) =
    [21, 31, 36, 254] := by decide
theorem witness_ScanVisitRunsTheDecodedEntry : entryAt (held .a 0x20 0 0 0) .a (1, 3) = some (.hat .right) ∧
    changedAt #v[0x20, 0x08, 0, 0] (held .a 0x20 0 0 0).prev (1, 3) = true ∧
    changedAt #v[0x20, 0x08, 0, 0] (held .a 0x20 0 0 0).prev (0, 5) = false := by decide
theorem witness_ScanReportsChangesInVisitingOrder : (held .b 0 0 0 0).var = .held .b ∧ ∀ p, (entryAt (held .b 0 0 0 0) .b p).isSome = true := by decide
theorem witness_ScanLastVisitDecides : ∃ t, exec .scan ((held .a 0x20 0 0 0).withLoc { fx.loc with f := #v[0x23, 0xFF, 0, 0, 0x0F] }) = .next t := next_exists (by decide)
theorem witness_SynbFollowsTheCondition : ((held .b 0 0 0 0).withLoc { fx.loc with f := #v[0x20, 0, 0x10, 0, 0] }).syn = true ∧ (held .b 0 0 0 0).synPrev = false ∧
    (held .c 0 0 0 0).var ≠ .held .b ∧ (held .b 0 0 0 0).syn = (held .b 0 0 0 0).synPrev := by decide
theorem witness_LoadvarHoldsAVariantOnlyFromAbsent : fx.var = .absent ∧ (held .b 0 0 0 0).var ≠ .absent := by decide
theorem witness_IdstepChoosesThePath : fx.loc.cls = .absent ∧ fx.safe = false ∧ safeFx.loc.cls = .absent ∧ safeFx.safe = true ∧
    (fx.withLoc { fx.loc with cls := .noMatch }).loc.cls = .noMatch ∧ (fx.withLoc { fx.loc with cls := .matched .a }).var = .absent ∧
    ((held .a 0 0 0 0).withLoc { fx.loc with cls := .matched .a }).var = .held .a ∧
    ((held .b 0 0 0 0).withLoc { fx.loc with cls := .matched .a }).var = .held .b := by decide
theorem witness_PollSequencesTheOperations : fx.configOk = true := by decide
theorem witness_StepRunsTheDecodedFrame : (fx.presentFrame #v[0x21, 0, 0, 0, 0x0F]).configOk = true ∧
    decode (pollFrame (fx.presentFrame #v[0x21, 0, 0, 0, 0x0F])).toList = .ok (.idA #v[0x21, 0, 0, 0, 0x0F]) := by decide
theorem witness_FetchWordIsTheNextFrame : State.reset.configOk = true ∧ State.reset.rom.wf = true ∧ 0 < 8 ∧ 8 < 40 ∧
    Entry.ofByte (BitVec.ofNat 8 0x23) = some (.hat .right) ∧ Entry.ofByte (BitVec.ofNat 8 0x24) = none := by decide
theorem witness_EveryPollCompletes : fx.configOk = true ∧ ({ fx with rom := fx.rom.provide .a 0 0x15 } : State).configOk = false := by decide

/-- Clauses of IdentifierTransitions: a step for each class, from each kind of state. -/
theorem witness_IdentifierTransitions_absent : (∃ t, poll fx 0x40 0 0 0 0 = .next t) ∧
    pollClass (fx.presentFrame #v[0x40, 0, 0, 0, 0]) = .absent := ⟨next_exists (by decide), by decide⟩
theorem witness_IdentifierTransitions_noMatch : (∃ t, poll fx 0xC0 0 0 0 0 = .next t) ∧
    pollClass (fx.presentFrame #v[0xC0, 0, 0, 0, 0]) = .noMatch := ⟨next_exists (by decide), by decide⟩
theorem witness_IdentifierTransitions_matched : (∃ t, poll fx 0xA0 0 0 0 0 = .next t) ∧ fx.var = .absent ∧
    (∃ t, poll (held .c 0 0 0 0) 0xA0 0 0 0 0 = .next t) ∧ (∃ t, poll (held .a 0 0 0 0) 0xA0 0 0 0 0 = .next t) ∧
    pollClass (fx.presentFrame #v[0xA0, 0, 0, 0, 0]) = .matched .c :=
  ⟨next_exists (by decide), rfl, next_exists (by decide), next_exists (by decide), by decide⟩
theorem witness_SkippedCycleHoldsEverything : Skipped ((held .a 0 0 0 0).presentFrame #v[0xC0, 0, 0, 0, 0]) ∧
    (∃ t, poll (held .a 0 0 0 0) 0xC0 0 0 0 0 = .next t) ∧ Skipped ((held .a 0 0 0 0).presentFrame #v[0xA0, 0, 0, 0, 0]) ∧
    (∃ t, poll (held .a 0 0 0 0) 0xA0 0 0 0 0 = .next t) :=
  ⟨.inl (by decide), next_exists (by decide), .inr ⟨.a, .c, by decide, rfl, by decide⟩, next_exists (by decide)⟩
theorem witness_DiffCycleReportsExactlyTheChanges : (fx.presentFrame #v[0x21, 0, 0, 0, 0x0F]).configOk = true ∧
    DiffFor .a (fx.presentFrame #v[0x21, 0, 0, 0, 0x0F]) ∧ DiffFor .b ((held .b 0 0 0 0).presentFrame #v[0x20, 0, 0x10, 0, 0]) :=
  ⟨by decide, ⟨by decide, .inl rfl⟩, ⟨by decide, .inr rfl⟩⟩

/-- Two equal frames in a row. -/
def twice : State := fx.withBus [#v[0xDE, 0xFF, 0xFF, 0xFF, 0xF0], #v[0xDE, 0xFF, 0xFF, 0xFF, 0xF0]]

theorem witness_RepeatedFrameEmitsOnlyAFlush : DiffFor .a twice ∧ (∃ t, step twice = .next t) ∧
    get? nextFrame (step twice) = some (nextFrame twice) := ⟨⟨by decide, .inl rfl⟩, next_exists (by decide), by decide⟩
theorem witness_CycleEventListHasOneOfThreeShapes : ∃ t, poll fx 0x21 0 0 0 0x0F = .next t := next_exists (by decide)
theorem witness_ReidentificationReportsActiveBits : safeFx.Clean ∧ safeFx.var = .absent ∧
    (safeFx.presentFrame #v[0x20, 0, 0x10, 0xFF, 0xFF]).configOk = true ∧
    pollClass (safeFx.presentFrame #v[0x20, 0, 0x10, 0xFF, 0xFF]) = .matched .b :=
  ⟨by unfold State.Clean; decide, rfl, by decide, by decide⟩

/-- VariantA held with its paddle pressed, and all three tables. -/
def paddle : State := { full with var := .held .a, prev := #v[0x21, 0, 0, 0] }

/-- The fixture tables meet R123, as 95_test_vectors.md says: paddles in all three, and button 1 of A at index 0. -/
theorem witness_LeftPaddle_tables : RealTables paddle :=
  ⟨fun v => match v with
    | .a => ⟨(0, 0), (0, 1), by decide, by decide⟩
    | .b => ⟨(0, 1), (0, 0), by decide, by decide⟩
    | .c => ⟨(0, 0), (0, 1), by decide, by decide⟩, 0, by decide, by decide⟩
theorem witness_LeftPaddleReleaseIsReported : paddle.var = .held .a ∧ entryAt paddle .a (0, 0) = some (.button 1) ∧
    (paddle.presentFrame #v[0x20, 0, 0, 0, 0x0F]).configOk = true ∧
    pollClass (paddle.presentFrame #v[0x20, 0, 0, 0, 0x0F]) = .matched .a ∧
    paddle.prev[0].getLsbD 0 = true ∧
    (pollFrame (paddle.presentFrame #v[0x20, 0, 0, 0, 0x0F]))[0].getLsbD 0 = false := by decide
theorem witness_StepKeepsTheRestState : (safeFx.presentFrame #v[0x21, 0, 0, 0, 0x0F]).RestInv ∧
    (∃ t, poll safeFx 0x21 0 0 0 0x0F = .next t) := ⟨by unfold State.RestInv State.Clean; decide, next_exists (by decide)⟩
theorem witness_StepNeverHoldsADiagonal : ((held .a 0x20 0 0 0).presentFrame #v[0x20, 8, 0, 0, 0x0F]).HatLegal ∧
    (∃ t, poll (held .a 0x20 0 0 0) 0x20 8 0 0 0x0F = .next t) := ⟨by unfold State.HatLegal; decide, next_exists (by decide)⟩
theorem witness_StepNeverHoldsADiagonal_event : (events? (poll (held .a 0x20 1 0 0) 0x20 4 0 0 0x0F)).map (fun es => decide (.setHat 5 ∈ es)) =
    some true := by decide
theorem witness_StepKeepsTheMirrorLaw : (fx.presentFrame #v[0x21, 0, 0, 0, 0x0F]).Mirrored ∧
    (∃ t, poll fx 0x21 0 0 0 0x0F = .next t) := ⟨by unfold State.Mirrored; decide, next_exists (by decide)⟩
theorem witness_NoInstructionReadsTheSink : exec .skip fx = .next fx ∧ exec (.lookup 0 0) fx = .fault .noTableForAbsent ∧
    exec (.entryIllegal 0x15) fx = .refused .illFormedConfig := ⟨rfl, rfl, rfl⟩
theorem witness_VariantChangesOnlyThroughAbsent : get? (·.var) (poll fx 0x20 0 0 0 0) = some (.held .b) ∧
    get? (·.var) (poll (held .b 0 0 0 0) 0 0 0 0 0) = some .absent ∧ events? (poll (held .b 0x20 0 0 0) 0x20 0 0 0 0) = some [.flush] := by decide
theorem witness_NoRepeatedResetWhileUnmatched :
    (safeFx.withBus [#v[0xFF, 0xFF, 0xFF, 0xFF, 0xFF], #v[0x3F, 0xFF, 0xFF, 0xFF, 0xFF]]).configOk = true ∧ safeFx.safe = true ∧
    safeFx.var = .absent ∧ classOf (Frame.invert #v[0xFF, 0xFF, 0xFF, 0xFF, 0xFF]) = .absent ∧
    classOf (Frame.invert #v[0x3F, 0xFF, 0xFF, 0xFF, 0xFF]) = .noMatch := by decide
theorem observe_one {s t : State} (h : step s = .next t) : observe 1 s = some (t.events ++ [], t) := by simp [observe, h]
theorem witness_SinkFollowsTheObservation : ∃ es t, observe 1 (fx.presentFrame #v[0x21, 0, 0, 0, 0x0F]) = some (es, t) := by
  obtain ⟨t, ht⟩ : ∃ t, poll fx 0x21 0 0 0 0x0F = .next t := next_exists (by decide)
  exact ⟨_, t, observe_one ht⟩

end Sys2Proof.Tests
end

section
/-! The pattern table of R66 gives the class of R100, and the values of the identification fields (R61 to R64). -/

namespace Sys2Proof

/-- The escape comparison is on the whole bytes (R64). -/
theorem escape_iff (f : Frame) : f.escape = true ↔ f[3] = 0xFF ∧ f[4] = 0xFF := by
  simp [Frame.escape, Config.escByte]

/-- The recognised headers are those of the three NM rows (R6, R105). -/
theorem recognised_iff (f : Frame) : f.recognised = true ↔ f.header = 192 ∨ f.header = 160 ∨ f.header = 32 := by
  simp [Frame.recognised, Config.hdr192, Config.hdr160, Config.hdr32, or_assoc]

/-- The default row's mask and match are zero (R66, row 8). -/
@[simp] theorem rowAbsent_hits (f : Frame) : rowAbsent.hits f = true := by
  simp [PatternRow.hits, rowAbsent]

/-- The header is the top three bits of byte 0, left in place (R61). -/
theorem header_toNat (f : Frame) : (f[0].extractLsb' 5 3).toNat * 32 = f.header.toNat := by
  have h : ∀ v : Byte, (v.extractLsb' 5 3).toNat * 32 = (v &&& 0xE0).toNat := by decide
  exact h f[0]

/-- aux4 is bit 5 of byte 3, left in place (R62). -/
theorem aux4_eq_iff (f : Frame) : f.aux4 = 0x20 ↔ f[3].getLsbD 5 = true := by
  have h : ∀ v : Byte, v &&& 0x20 = 0x20 ↔ v.getLsbD 5 = true := by decide
  exact h f[3]

/-- aux5 is the low nibble of byte 4 (R63). -/
theorem aux5_toNat (f : Frame) : f.aux5.toNat = f[4].toNat % 16 := by
  simpa [Frame.aux5, Config.aux5Mask] using Nat.and_two_pow_sub_one_eq_mod f[4].toNat 4

/-- What `g` makes of the first item that meets a test, one item at a time. -/
theorem map_find?_cons {α β : Type} (p : α → Bool) (g : α → β) (x : α) (xs : List α) :
    ((x :: xs).find? p).map g = if p x then some (g x) else (xs.find? p).map g := by
  cases h : p x <;> simp [h]

end Sys2Proof

namespace Sys2Proof.Machine

/-- The ordered rules of R100 are the pattern rows of R66 in their order. ID_B0 and ID_BESC are the two alternatives of one rule,
the three NM rows those of the rule on a recognised header: a rule on a disjunction is a row for each part. -/
theorem classOf_eq_first_row (f : Frame) :
    classOf f =
      if rowIdC.hits f then .matched .c
      else if rowIdB0.hits f then .matched .b
      else if rowIdBesc.hits f then .matched .b
      else if rowIdA.hits f then .matched .a
      else if rowNm192.hits f then .noMatch
      else if rowNm160.hits f then .noMatch
      else if rowNm32.hits f then .noMatch
      else .absent := by
  simp only [classOf, rowIdC_hits, rowIdB0_hits, rowIdBesc_hits, rowIdA_hits, rowNm192_hits, rowNm160_hits, rowNm32_hits,
    escape_iff, recognised_iff, Config.hdr160, Config.hdr32, Config.aux5Full, and_or_left, ite_or]

/-- Settles O6: CLASSIFY's ordered rules are the pattern rows in order, and the search of the table tries the rows in that order. -/
theorem firstMatchingPatternGivesTheClass : Obligations.FirstMatchingPatternGivesTheClass := by
  intro s
  refine ⟨s.withLoc { s.loc with cls := classOf s.loc.f }, rfl, ?_⟩
  have hlast : (s.loc.f.f40 &&& 0 == 0) = true := rowAbsent_hits s.loc.f
  simp only [map_find?_cons, hlast, if_true, State.withLoc_loc, classOf_eq_first_row, apply_ite some]
  rfl

/-- Settles O7, field by field: each is a mask of one byte. -/
theorem fieldsTakeTheirValues : Obligations.FieldsTakeTheirValues := by
  intro f
  refine ⟨?_, rfl, header_toNat f, aux4_cases f, aux4_eq_iff f, aux5_toNat f, ?_⟩
  · simpa using header_cases f
  · intro hesc
    obtain ⟨h3, h4⟩ := (escape_iff f).1 hesc
    exact aux_of_escape h3 h4

end Sys2Proof.Machine
end

section
/-! INVERT, byte by byte, and the frame of an operation that writes the locals only (R91). -/

namespace Sys2Proof

/-- Each byte of the inverted frame is the complement of the raw byte (R91). -/
@[simp] theorem Frame.getElem_invert (r : Frame) (k : Fin 5) : r.invert[k] = ~~~ r[k] := by
  simp [Frame.invert]

end Sys2Proof

namespace Sys2Proof.Machine

/-- A write of the locals leaves registers, configuration, input and output as they were. -/
theorem withLoc_frame (s : State) (l : Locals) :
    SameRegisters s (s.withLoc l) ∧ SameConfig s (s.withLoc l) ∧ SameInput s (s.withLoc l) ∧ SameOutput s (s.withLoc l) := by
  simp [SameRegisters, SameConfig, SameInput, SameOutput]

/-- INVERT as one write of the locals (R91). -/
theorem exec_invert (s : State) : exec .invert s = .next (s.withLoc { s.loc with f := s.loc.raw.invert }) := rfl

/-- Settles O15: the three readings of R91 are the complement of one byte, and INVERT is one write of the locals. -/
theorem invertComplementsEveryByte : Obligations.InvertComplementsEveryByte := by
  refine ⟨fun s => ⟨_, exec_invert s, fun k => ?_, rfl, withLoc_frame s _⟩, Frame.invert_invert⟩
  rw [State.withLoc_loc, Frame.getElem_invert]
  exact ⟨rfl, BitVec.toNat_not, BitVec.xor_allOnes.symm⟩

end Sys2Proof.Machine
end

section
/-! The class by its header and by the escape bytes (R103, R104, R106). -/

namespace Sys2Proof

/-- Headers are multiples of 32, so the unrecognised ones are the other five (R61, R106). -/
theorem header_not_mem_recognised_iff (f : Frame) :
    f.header ∉ ([192, 160, 32] : List Byte) ↔ f.header ∈ ([0, 64, 96, 128, 224] : List Byte) := by
  rcases header_cases f with h | h | h | h | h | h | h | h <;> rw [h] <;> decide

end Sys2Proof

namespace Sys2Proof.Machine

/-- CLASSIFY as one write of the locals (R100). -/
theorem exec_classify (s : State) : exec .classify s = .next (s.withLoc { s.loc with cls := classOf s.loc.f }) := rfl

/-- Every rule before the last asks for a recognised header, and the last takes only unrecognised ones (R106). -/
theorem classOf_eq_absent_iff (f : Frame) : classOf f = .absent ↔ f.header ∉ ([192, 160, 32] : List Byte) := by
  have hrec : f.recognised = true ↔ f.header ∈ ([192, 160, 32] : List Byte) := by simp [recognised_iff]
  rw [← hrec, classOf]
  split_ifs with hC hB hA hN
  · simp [(recognised_iff f).2 (.inr (.inl hC.1))]
  · simp [(recognised_iff f).2 (.inr (.inr hB.1))]
  · simp [(recognised_iff f).2 (.inr (.inr hA.1))]
  · simp [hN]
  · simp [hN]

/-- With header 32 the rule for VariantC cannot apply, and the escape bytes meet the rule for VariantB (R103). -/
theorem classOf_of_escape {f : Frame} (hh : f.header = 32) (he : f.escape = true) : classOf f = .matched .b := by
  simp [classOf, hh, he, Config.hdr160, Config.hdr32]

/-- With header 32 and aux5 = 15 only the escape bytes would meet a rule before the one for VariantA (R104). -/
theorem classOf_of_aux5_full {f : Frame} (hh : f.header = 32) (h5 : f.aux5 = 15) (he : ¬ f.escape = true) :
    classOf f = .matched .a := by
  simp [classOf, hh, h5, he, Config.hdr160, Config.hdr32, Config.aux5Full]

/-- Settles O12: the class is Absent exactly on an unrecognised header, and a header has eight values. -/
theorem absenceIsDecidedByTheHeaderAlone : Obligations.AbsenceIsDecidedByTheHeaderAlone := by
  intro s
  have habsent := classOf_eq_absent_iff s.loc.f
  exact ⟨_, exec_classify s, habsent, habsent.trans (header_not_mem_recognised_iff s.loc.f)⟩

/-- Settles O11: the rule for VariantB holds the escape bytes and stands before the rule for VariantA. -/
theorem escapeDominatesVariantA : Obligations.EscapeDominatesVariantA := by
  intro s hh
  refine ⟨_, exec_classify s, fun h3 h4 => ?_, fun h5 hne => ?_⟩
  · exact classOf_of_escape hh ((escape_iff s.loc.f).2 ⟨h3, h4⟩)
  · exact classOf_of_aux5_full hh h5 (mt (escape_iff s.loc.f).1 hne)

end Sys2Proof.Machine
end

section
/-! LOOKUP on a held table (R121). -/

namespace Sys2Proof.Machine

/-- LOOKUP of a legal entry of the held table as one write of the locals (R121). -/
theorem exec_lookup_of_legal {s : State} {v : Variant} {k : Fin 4} {i : Fin 8} {e : Entry} (hv : s.var = .held v)
    (he : Entry.ofByte (s.tblByte v (linearIndex k i)) = some e) :
    exec (.lookup k i) s = .next (s.withLoc { s.loc with entry := e }) := by
  have hrun : exec (.lookup k i) s = execLookup k i s := rfl
  simp only [hrun, execLookup, hv, he]

/-- Settles O21: on a legal entry of the held table LOOKUP is one write of the locals. -/
theorem lookupReadsTheHeldTable : Obligations.LookupReadsTheHeldTable := by
  intro s v k i e hv he
  exact ⟨_, exec_lookup_of_legal hv he, rfl, withLoc_frame s _⟩

end Sys2Proof.Machine
end

section
/-! The hat codes of a step are the centred one or one of 1, 3, 5, 7 (R26, R79, R152). -/

namespace Sys2Proof.Machine

/-- The five codes `HAT` may hold and a set-hat event may carry: the centred one or a direction's (R26, R79). -/
def LegalHatCode (ps : Params) (c : HatCode) : Prop := c = ps.hatCentered ∨ c = 1 ∨ c = 3 ∨ c = 5 ∨ c = 7

/-- R26's invariant in terms of the code. -/
theorem hatLegal_iff (s : State) : s.HatLegal ↔ LegalHatCode s.params s.hat := Iff.rfl

/-- HATCONV gives no diagonal (R150). -/
theorem hatconv_legal (ps : Params) (d : Dir) : LegalHatCode ps (hatconv d) := by
  cases d <;> simp [LegalHatCode, hatconv]

/-- The code of a changed hat bit: its direction's when active, the centred one when not (R132). -/
theorem hatBitCode_legal (ps : Params) (d : Dir) (cur : Bool) :
    LegalHatCode ps (if cur then hatconv d else ps.hatCentered) := by
  cases cur
  · exact .inl rfl
  · exact hatconv_legal ps d

/-- The centred value of well-formed parameters is not one of 1..8 (R122), and the direction codes are odd. -/
theorem LegalHatCode.not_diagonal {ps : Params} {c : HatCode} (hwf : ps.wf = true) (hc : LegalHatCode ps c) :
    c ∉ ([2, 4, 6, 8] : List HatCode) := by
  have hcentred : ps.hatCentered.toNat = 0 ∨ 8 < ps.hatCentered.toNat := of_decide_eq_true hwf
  rcases hc with rfl | rfl | rfl | rfl | rfl
  · intro hmem
    simp only [List.mem_cons, List.not_mem_nil, or_false] at hmem
    rcases hmem with h | h | h | h <;> simp [h] at hcentred
  all_goals decide

/-- A configuration that runs has well-formed parameters (R122). -/
theorem params_wf_of_configOk {s : State} (h : s.configOk = true) : s.params.wf = true := (Bool.and_eq_true_iff.1 h).2

/-! ### `HAT` -/

/-- Routing writes `HAT` under a hat entry only, with the code of the bit (R131 to R133). -/
theorem routed_hatLegal (e : Entry) (cur : Bool) {s : State} (hs : s.HatLegal) : (routed e cur s).HatLegal := by
  cases e with
  | unmapped => exact hs
  | button b => exact hs
  | hat d => exact hatBitCode_legal s.params d cur

/-- One visit keeps `HAT` legal: it moves the scan position and routes at most one entry (R130). -/
theorem visit_hatLegal {p : Fin 4 × Fin 8} {s t : State} (hs : s.HatLegal) (h : visit p s = .next t) : t.HatLegal := by
  rw [visit_eq] at h
  split at h
  · split at h
    · cases h
    · split at h
      · cases h; exact routed_hatLegal _ _ hs
      · cases h
  · cases h; exact hs

theorem execScan_hatLegal {s t : State} (hs : s.HatLegal) (h : execScan s = .next t) : t.HatLegal :=
  forEach_keeps (fun _ _ _ _ hu hv => visit_hatLegal hu hv) hs h

/-- The tail of a diff cycle leaves `HAT` and the parameters alone (R134, R135, R159). -/
theorem afterScan_hatLegal {u : State} (hu : u.HatLegal) : (afterScan u).HatLegal := by
  unfold afterScan
  split <;> exact hu

/-- An absent cycle leaves `HAT` alone or centres it (R108, R174). -/
theorem afterAbsent_hatLegal {s : State} (hs : s.HatLegal) : (afterAbsent s).HatLegal := by
  unfold afterAbsent
  split
  · exact hs
  · rw [enterSafeState_spec]; exact .inl rfl

theorem step_hatLegal {s t : State} (h : step s = .next t) (hs : s.HatLegal) : t.HatLegal := by
  obtain ⟨-, ⟨-, rfl⟩ | ⟨-, rfl⟩ | ⟨v, -, u, hu, rfl⟩⟩ := step_cases h
  · exact afterAbsent_hatLegal hs
  · exact hs
  · exact afterScan_hatLegal (execScan_hatLegal (s := scanStart v s) hs hu)

/-- A step leaves the parameters alone (R32). -/
theorem step_params {s t : State} (h : step s = .next t) : t.params = s.params := by
  obtain ⟨-, ⟨-, rfl⟩ | ⟨-, rfl⟩ | ⟨v, -, u, hu, rfl⟩⟩ := step_cases h
  · unfold afterAbsent
    split
    · rfl
    · rw [enterSafeState_spec]; rfl
  · rfl
  · obtain ⟨-, -, -, -, -, hp, -⟩ := scan_frame hu
    have htail : (afterScan u).params = u.params := by unfold afterScan; split <;> rfl
    exact htail.trans hp

/-! ### The set-hat events -/

/-- The set-hat event of a changed bit carries the code of the bit (R132). -/
theorem legal_of_eventOf_eq_setHat {ps : Params} {cur : Bool} {e : Entry} {c : HatCode}
    (h : eventOf ps cur e = some (.setHat c)) : LegalHatCode ps c := by
  cases e with
  | unmapped => simp [eventOf] at h
  | button b => cases cur <;> simp [eventOf] at h
  | hat d =>
    have hc : (if cur then hatconv d else ps.hatCentered) = c := by simpa [eventOf] using h
    exact hc ▸ hatBitCode_legal ps d cur

theorem legal_of_setHat_mem_scanEvents {s : State} {v : Variant} {d d' : DataBytes} {c : HatCode}
    (h : Event.setHat c ∈ scanEvents s v d d') : LegalHatCode s.params c := by
  obtain ⟨p, -, hp⟩ := List.mem_filterMap.1 h
  split at hp
  · obtain ⟨e, -, he⟩ := Option.bind_eq_some_iff.1 hp
    exact legal_of_eventOf_eq_setHat he
  · cases hp

/-- The only set-hat event of the safe-state reset centres the hat (R174). -/
theorem legal_of_setHat_mem_safeResetEvents {ps : Params} {c : HatCode} (h : Event.setHat c ∈ safeResetEvents ps) :
    LegalHatCode ps c := .inl (by simpa [safeResetEvents] using h)

/-- The tail of a diff cycle emits no set-hat event (R134, R159). -/
theorem setHat_mem_afterScan {u : State} {c : HatCode} (h : Event.setHat c ∈ (afterScan u).events) :
    Event.setHat c ∈ u.events := by
  unfold afterScan at h
  split at h
  · cases hsyn : u.syn <;> simpa [clearSafe, hsyn] using h
  · simpa [clearSafe] using h

/-- An absent cycle emits nothing or the events of the safe-state reset (R108). -/
theorem afterAbsent_events (s : State) :
    (afterAbsent s).events = if s.safe then [] else safeResetEvents s.params := by
  unfold afterAbsent
  split
  · rfl
  · rw [enterSafeState_spec]; rfl

theorem legal_of_setHat_mem_step {s t : State} (h : step s = .next t) {c : HatCode} (hc : Event.setHat c ∈ t.events) :
    LegalHatCode s.params c := by
  obtain ⟨-, ⟨-, rfl⟩ | ⟨-, rfl⟩ | ⟨v, -, u, hu, rfl⟩⟩ := step_cases h
  · rw [afterAbsent_events] at hc
    split at hc
    · cases hc
    · exact legal_of_setHat_mem_safeResetEvents hc
  · cases hc
  · obtain ⟨hevents, -⟩ := scan_events scanOrder (v := v) rfl hu
    have hscan := setHat_mem_afterScan hc
    rw [hevents] at hscan
    exact legal_of_setHat_mem_scanEvents (s := scanStart v s) hscan

/-- Settles O55: on each of the three paths `HAT` and the set-hat events hold HATCONV's codes or the centred one, and on a
configuration that runs the centred one is no diagonal. -/
theorem stepNeverHoldsADiagonal : Obligations.StepNeverHoldsADiagonal := by
  intro s t h
  have hwf : s.params.wf = true := params_wf_of_configOk (step_cases h).1
  refine ⟨fun hs => ?_, fun c hc => ?_⟩
  · have ht : t.HatLegal := step_hatLegal h hs
    exact ⟨ht, ((hatLegal_iff t).1 ht).not_diagonal (step_params h ▸ hwf)⟩
  · have hlegal : LegalHatCode s.params c := legal_of_setHat_mem_step h hc
    exact ⟨hlegal, hlegal.not_diagonal hwf⟩

end Sys2Proof.Machine
end

section
/-! Decoding and encoding, both ways: a frame is in the set of R67 of exactly the row it decodes to (R66), and the table bytes and
the entries are each other's (R76, R77). -/

namespace Sys2Proof

/-! ### Frames -/

/-- The ordered decoder in terms of the identification fields (R61 to R64, R66). -/
theorem decodeFrame_eq_fields (f : Frame) :
    decodeFrame f =
      if f.header = 160 ∧ f.aux5 = 0 then .idC f
      else if f.header = 32 ∧ f.aux4 = 0 ∧ f.aux5 = 0 then .idB0 f
      else if f.header = 32 ∧ f[3] = 0xFF ∧ f[4] = 0xFF then .idBesc f
      else if f.header = 32 ∧ f.aux5 = 15 then .idA f
      else if f.header = 192 then .nm192 f
      else if f.header = 160 then .nm160 f
      else if f.header = 32 then .nm32 f
      else .absent f := by
  simp only [decodeFrame, rowIdC_hits, rowIdB0_hits, rowIdBesc_hits, rowIdA_hits, rowNm192_hits, rowNm160_hits, rowNm32_hits]

/-- aux5 is 0, 15, or strictly between (R63). -/
theorem aux5_cases (f : Frame) : f.aux5 = 0 ∨ f.aux5 = 15 ∨ (1 ≤ f.aux5.toNat ∧ f.aux5.toNat ≤ 14) := by
  have hlt := aux5_lt f
  bv_omega

/-- The eight rows for a frame, in the table's order (R66). -/
def frameRows (f : Frame) : List Instr := [.idC f, .idB0 f, .idBesc f, .idA f, .nm192 f, .nm160 f, .nm32 f, .absent f]

/-- A frame is in the set of the row it decodes to, and in no other (R67). The fields decide: first the header, and where it is 32
or 160, aux5, with aux4 or the escape bytes where aux5 leaves two rows open. -/
theorem map_wf_frameRows (f : Frame) :
    (frameRows f).map Instr.wf = (frameRows f).map fun i => decide (decodeFrame f = i) := by
  simp only [frameRows, List.map, decodeFrame_eq_fields, Instr.wf, WellFormed.setIdC, WellFormed.setIdB0, WellFormed.setIdBesc,
    WellFormed.setIdA, WellFormed.setNm192, WellFormed.setNm160, WellFormed.setNm32, WellFormed.setAbsent, Config.hdr160,
    Config.hdr32, Config.hdr192, beq_eq_decide, ← Bool.decide_and, ← decide_not]
  rcases header_cases f with h | h | h | h | h | h | h | h
  · simp [h]
  · rcases aux5_cases f with h5 | h5 | ⟨h1, h14⟩
    · have hesc : ¬ (f[3] = 255#8 ∧ f[4] = 255#8) := fun he => by simp [(aux_of_escape he.1 he.2).2] at h5
      rcases aux4_cases f with h4 | h4 <;> simp [h, h4, h5, hesc]
    · by_cases hesc : f[3] = 255#8 ∧ f[4] = 255#8 <;> simp [h, h5, hesc]
    · have h0 : ¬ f.aux5 = 0#8 := by bv_omega
      have h15 : ¬ f.aux5 = 15#8 := by bv_omega
      have hesc : ¬ (f[3] = 255#8 ∧ f[4] = 255#8) := fun he => h15 (aux_of_escape he.1 he.2).2
      simp [h, h0, h15, h1, h14, hesc]
  · simp [h]
  · simp [h]
  · simp [h]
  · by_cases h5 : f.aux5 = 0#8
    · simp [h, h5]
    · have h1 : 1 ≤ f.aux5.toNat := by bv_omega
      have h15 : f.aux5.toNat ≤ 15 := Nat.le_of_lt_succ (aux5_lt f)
      simp [h, h5, h1, h15]
  · simp [h]
  · simp [h]

/-- A row of a frame is well formed exactly when the frame decodes to it (R67). -/
theorem wf_iff_decodeFrame {f : Frame} {i : Instr} (hi : i ∈ frameRows f) : i.wf = true ↔ decodeFrame f = i := by
  rw [List.map_inj_left.1 (map_wf_frameRows f) i hi, decide_eq_true_eq]

theorem decodeFrame_mem_frameRows (f : Frame) : decodeFrame f ∈ frameRows f := by
  unfold decodeFrame frameRows
  split_ifs <;> simp

/-- A row of a frame is encoded as the frame. -/
theorem encode_of_mem_frameRows {f : Frame} {i : Instr} (hi : i ∈ frameRows f) : encode i = some f.toList := by
  simp only [frameRows, List.mem_cons, List.not_mem_nil, or_false] at hi
  rcases hi with rfl | rfl | rfl | rfl | rfl | rfl | rfl | rfl <;> rfl

theorem nodup_frameRows (f : Frame) : (frameRows f).Nodup := by simp [frameRows]

/-- Settles O5: a frame is in the set of the row it decodes to and of no other, and the eight rows are different. -/
theorem everyFrameIsInExactlyOneSet : Obligations.EveryFrameIsInExactlyOneSet := by
  intro f
  refine ⟨?_, ?_, ?_, ?_, ?_, ?_, ?_, ?_, ?_⟩
  · calc
      ((frameRows f).map Instr.wf).count true = (frameRows f).count (decodeFrame f) := by
        rw [map_wf_frameRows, List.count, List.countP_map, List.count]
        simp [Function.comp_def, beq_eq_decide, eq_comm]
      _ = 1 := List.count_eq_one_of_mem (nodup_frameRows f) (decodeFrame_mem_frameRows f)
  all_goals exact fun h => Iff.mp (wf_iff_decodeFrame (by simp [frameRows])) h

/-! ### Table entries -/

/-- The byte of an entry holds the entry (R76). -/
@[simp] theorem ofByte_toByte (e : Entry) : Entry.ofByte e.toByte = some e := by
  cases e with
  | unmapped => rfl
  | button b => revert b; decide
  | hat d => cases d <;> rfl

/-- A table byte holds no entry but the one whose byte it is (R76). -/
theorem toByte_of_ofByte {v : Byte} {e : Entry} (h : Entry.ofByte v = some e) : e.toByte = v := by
  have hall : ∀ v : Byte, ∀ e ∈ Entry.ofByte v, e.toByte = v := by decide
  exact hall v e h

/-- The illegal bytes (R77). -/
theorem ofByte_eq_none_iff (v : Byte) :
    Entry.ofByte v = none ↔ (21 ≤ v.toNat ∧ v.toNat ≤ 31) ∨ (36 ≤ v.toNat ∧ v.toNat ≤ 254) := by
  revert v
  decide

/-- The row of an entry is well formed, stands for the entry and is encoded as its byte (R76). -/
theorem instr_spec (e : Entry) : e.instr.wf = true ∧ e.instr.entry? = some e ∧ encode e.instr = some [e.toByte] := by
  cases e with
  | unmapped => exact ⟨rfl, rfl, rfl⟩
  | button b => revert b; decide
  | hat d => cases d <;> exact ⟨rfl, rfl, rfl⟩

/-- The rows that stand for an entry are the entries' rows. -/
theorem eq_instr_of_entry? {i : Instr} {e : Entry} (h : i.entry? = some e) : i = e.instr := by
  cases i <;> cases h <;> rfl

theorem decodeEntry_of_legal {v : Byte} {e : Entry} (h : Entry.ofByte v = some e) : decodeEntry v = e.instr := by
  simp [decodeEntry, h]

theorem decodeEntry_of_illegal {v : Byte} (h : Entry.ofByte v = none) : decodeEntry v = .entryIllegal v := by
  simp [decodeEntry, h]

/-- What decodes is one table byte or the bytes of a frame (R44, R85). -/
theorem decode_eq_ok_iff {bs : List Byte} {i : Instr} :
    decode bs = .ok i ↔ (∃ v, bs = [v] ∧ decodeEntry v = i) ∨ ∃ f : Frame, bs = f.toList ∧ decodeFrame f = i := by
  constructor
  · intro h
    unfold decode at h
    split at h
    · exact .inl ⟨_, rfl, Except.ok.inj h⟩
    · exact .inr ⟨_, rfl, Except.ok.inj h⟩
    · cases h
  · rintro (⟨v, rfl, rfl⟩ | ⟨f, rfl, rfl⟩)
    · rfl
    · exact decode_frame f

/-- What has an encoding is a row of a frame, a row of an entry, or the illegal row of a byte. -/
theorem encode_eq_some {i : Instr} {bs : List Byte} (h : encode i = some bs) :
    (∃ f, i ∈ frameRows f ∧ bs = f.toList) ∨ (∃ e : Entry, i = e.instr ∧ bs = [e.toByte]) ∨
      ∃ v, i = .entryIllegal v ∧ bs = [v] := by
  cases hi : i.entry? with
  | some e =>
    obtain rfl := eq_instr_of_entry? hi
    obtain ⟨-, -, henc⟩ := instr_spec e
    exact .inr (.inl ⟨e, rfl, Option.some.inj (h.symm.trans henc)⟩)
  | none =>
    cases i
    case idC f | idB0 f | idBesc f | idA f | nm192 f | nm160 f | nm32 f | absent f =>
      exact .inl ⟨f, by simp [frameRows], (Option.some.inj h).symm⟩
    case entryIllegal v => exact .inr (.inr ⟨v, rfl, (Option.some.inj h).symm⟩)
    all_goals simp [Instr.entry?, encode] at hi h

/-- Settles O2: a well-formed row of a frame is the row the frame decodes to, and an entry's byte holds the entry. -/
theorem decodeOfEncodeIsTheInstruction : Obligations.DecodeOfEncodeIsTheInstruction := by
  intro i bs hwf henc
  rcases encode_eq_some henc with ⟨f, hi, rfl⟩ | ⟨e, rfl, rfl⟩ | ⟨v, rfl, rfl⟩
  · rw [decode_frame, (wf_iff_decodeFrame hi).1 hwf]
  · exact congrArg Except.ok (decodeEntry_of_legal (ofByte_toByte e))
  · exact congrArg Except.ok (decodeEntry_of_illegal (Option.isNone_iff_eq_none.1 hwf))

/-- Settles O3: what decodes is a frame, whose row it is in the set of, or a table byte, legal or not. -/
theorem encodeOfDecodeIsTheBytes : Obligations.EncodeOfDecodeIsTheBytes := by
  intro bs i h
  rcases decode_eq_ok_iff.1 h with ⟨v, rfl, rfl⟩ | ⟨f, rfl, rfl⟩
  · cases hv : Entry.ofByte v with
    | some e =>
      obtain ⟨hwf, -, henc⟩ := instr_spec e
      rw [decodeEntry_of_legal hv]
      exact ⟨hwf, by rw [henc, toByte_of_ofByte hv]⟩
    | none =>
      rw [decodeEntry_of_illegal hv]
      exact ⟨Option.isNone_iff_eq_none.2 hv, rfl⟩
  · have hi := decodeFrame_mem_frameRows f
    exact ⟨(wf_iff_decodeFrame hi).2 rfl, encode_of_mem_frameRows hi⟩

/-- A list of five bytes is a frame's. -/
theorem eq_toList_of_length {bs : List Byte} (h : bs.length = 5) : ∃ f : Frame, bs = f.toList :=
  ⟨⟨bs.toArray, by simpa using h⟩, rfl⟩

/-- Settles O4: what decodes is one byte or a frame, and the last clause of the decoder answers the length. -/
theorem decodeRejectsOtherLengths : Obligations.DecodeRejectsOtherLengths := by
  refine fun bs => ⟨⟨?_, ?_⟩, fun h1 h5 => ?_⟩
  · rintro ⟨i, hi⟩
    rcases decode_eq_ok_iff.1 hi with ⟨v, rfl, -⟩ | ⟨f, rfl, -⟩
    · exact .inl rfl
    · exact .inr (by simp)
  · rintro (h | h)
    · obtain ⟨v, rfl⟩ := List.length_eq_one_iff.1 h
      exact ⟨_, rfl⟩
    · obtain ⟨f, rfl⟩ := eq_toList_of_length h
      exact ⟨_, decode_frame f⟩
  · unfold decode
    split
    · exact absurd rfl h1
    · exact absurd rfl h5
    · rfl

/-- Settles O8: each number is the spec's, and reading back is `ofByte_toByte`. -/
theorem entryBytesReadBack : Obligations.EntryBytesReadBack := by
  refine ⟨ofByte_toByte, rfl, ?_, fun d => ?_, ofByte_eq_none_iff⟩
  · decide
  · cases d <;> rfl

/-- Settles O1: each word is evaluated. -/
theorem specWordsDecode : Obligations.SpecWordsDecode := by
  unfold Obligations.SpecWordsDecode
  decide

/-! ### The conditions on the raw bytes -/

/-- The complement of a byte meets a value within a mask where the byte meets the value's complement within it. -/
theorem not_and_eq_iff {v m p : Byte} (hp : p &&& m = p) : ~~~v &&& m = p ↔ v &&& m = ~~~p &&& m := by
  constructor
  · rintro rfl
    ext i hi
    simp only [BitVec.getElem_and, BitVec.getElem_not]
    cases v[i] <;> simp
  · intro h
    rw [← hp]
    ext i hi
    have hi' : (v &&& m)[i] = (~~~p &&& m)[i] := congrArg (·[i]) h
    simp only [BitVec.getElem_and, BitVec.getElem_not] at hi' ⊢
    revert hi'
    cases v[i] <;> cases m[i] <;> simp

/-- Settles O13: INVERT complements each byte, and the three masks and the escape bytes are conditions on one byte each. -/
theorem rawBytesOfTheConditions : Obligations.RawBytesOfTheConditions := by
  intro r
  have h0 : r.invert[0] = ~~~r[0] := r.getElem_invert 0
  have h3 : r.invert[3] = ~~~r[3] := r.getElem_invert 3
  have h4 : r.invert[4] = ~~~r[4] := r.getElem_invert 4
  simp only [Frame.header, Frame.aux4, Frame.aux5, escape_iff, Config.hdrMask, Config.aux4Mask, Config.aux5Mask, h0, h3, h4]
  have hff : ∀ v : Byte, ~~~v = 0xFF ↔ v = 0 := by decide
  refine ⟨?_, ?_, ?_, ?_, ?_, ?_, and_congr (hff _) (hff _)⟩
  all_goals exact not_and_eq_iff (by decide)

end Sys2Proof
end

section
/-! The ends of the three paths of a cycle, register by register (R155), and what every step keeps (R30, R31). -/

namespace Sys2Proof.Machine

/-! ### Skipped and absent cycles -/

/-- A skipped cycle ends with the registers and the sink as they were and an empty event list (R110). -/
theorem afterSkip_frame (s : State) :
    SameRegisters s (afterSkip s) ∧ (afterSkip s).events = [] ∧ (afterSkip s).sink = s.sink :=
  ⟨⟨rfl, rfl, rfl, rfl, rfl, rfl⟩, rfl, rfl⟩

/-- An absent cycle after the reset writes `VAR` only (R108). -/
theorem afterAbsent_of_safe {s : State} (h : s.safe = true) :
    afterAbsent s = takePath .absentPath ((classified s).withVar .absent) := by
  simp [afterAbsent, h]

/-- An absent cycle before the reset makes it (R108, R174). -/
theorem afterAbsent_of_not_safe {s : State} (h : s.safe = false) :
    afterAbsent s = takePath .absentPath ((enterSafeState (classified s)).withVar .absent) := by
  simp [afterAbsent, h]

/-- The reset leaves the four facts of R30 (R174). -/
theorem enterSafeState_clean (s : State) : (enterSafeState s).Clean := by
  rw [enterSafeState_spec]
  exact ⟨rfl, rfl, rfl, rfl⟩

/-! ### The reference sink -/

/-- Events other than a flush send nothing (R160). -/
theorem foldl_apply_sent_of_no_flush {es : List Event} (h : Event.flush ∉ es) (k : Sink) :
    (es.foldl Sink.apply k).sent = k.sent := by
  induction es generalizing k with
  | nil => rfl
  | cons e es ih =>
    rw [List.mem_cons, not_or] at h
    rw [List.foldl_cons, ih h.2]
    cases e with
    | flush => exact absurd rfl h.1
    | press b => rfl
    | release b => rfl
    | setHat c => rfl

/-- A flush after events that hold none sends one report, and leaves the report object equal to it (R159, R160). -/
theorem foldl_apply_append_flush {es : List Event} (h : Event.flush ∉ es) (k : Sink) :
    ((es ++ [Event.flush]).foldl Sink.apply k).sent = k.sent ++ [((es ++ [Event.flush]).foldl Sink.apply k).rep] := by
  rw [List.foldl_append, ← foldl_apply_sent_of_no_flush h k]
  rfl

/-- The releases of a list of buttons, in the report object. -/
theorem foldl_apply_releases (bs : List (Fin 21)) (k : Sink) :
    (bs.map Event.release).foldl Sink.apply k =
      { k with rep := { k.rep with rb := bs.foldl (fun (v : Buttons) (b : Fin 21) => v.set b false) k.rep.rb } } := by
  induction bs generalizing k with
  | nil => rfl
  | cons b bs ih => rw [List.map_cons, List.foldl_cons, ih]; rfl

/-- The released report, once sent, is what the reset's events leave of any sink (R174, R192 b). -/
theorem foldl_apply_safeResetEvents (ps : Params) (k : Sink) :
    (safeResetEvents ps).foldl Sink.apply k =
      { rep := { rb := Vector.replicate 21 false, rh := ps.hatCentered },
        sent := k.sent ++ [{ rb := Vector.replicate 21 false, rh := ps.hatCentered }] } := by
  rw [safeResetEvents, List.foldl_append, foldl_apply_releases, release_all_eq]
  rfl

/-! ### Diff cycles -/

/-- The end of a diff cycle in terms of where its scan ended (R134, R135, R159). -/
theorem afterScan_eq {u : State} {v : Variant} (hv : u.var = .held v) :
    afterScan u =
      { u with
        prev := u.loc.f.data, safe := false
        synPrev := if v = .b then u.syn else u.synPrev
        btn := if v = .b ∧ u.syn ≠ u.synPrev then u.btn.set u.params.synButton u.syn else u.btn
        events := u.events ++ synEvents u v u.loc.f ++ [.flush]
        sink := (synEvents u v u.loc.f ++ [Event.flush]).foldl Sink.apply u.sink } := by
  have hb : u.var = .held .b ↔ v = .b := by simp [hv]
  have hsyn : synCondition u.params u.loc.f = u.syn := rfl
  simp only [afterScan, synEvents, hb, hsyn]
  by_cases hvb : v = .b
  · by_cases hc : u.syn = u.synPrev
    · simp [hvb, hc, clearSafe, emit, State.withPrev, State.withSafe]
    · simp [hvb, hc, clearSafe, emit, setButton, State.withPrev, State.withSafe, State.withSynPrev, State.withBtn]
  · simp [hvb, clearSafe, emit, State.withPrev, State.withSafe]

/-- Where the scan of a diff cycle ends, as far as the rest of the cycle reads it (R130, R136). -/
theorem scan_of_scanStart {s u : State} {v : Variant} (hu : execScan (scanStart v s) = .next u) :
    u.var = .held v ∧ u.synPrev = s.synPrev ∧ u.params = s.params ∧ u.loc.f = pollFrame s ∧
    u.events = scanEvents s v (pollFrame s).data s.prev ∧
    u.sink = (scanEvents s v (pollFrame s).data s.prev).foldl Sink.apply s.sink := by
  obtain ⟨-, hvar, -, hsyn, -, hparams, -, -, hf, -⟩ := scan_frame hu
  obtain ⟨hevents, hsink⟩ := scan_events scanOrder (v := v) rfl hu
  exact ⟨hvar, hsyn, hparams, hf, hevents, hsink⟩

/-- A diff cycle of `v` from `s` ended in `t`: what it reported and what it wrote besides `BTN` and `HAT` (R130, R134, R135, R159). -/
structure DiffEnd (s : State) (v : Variant) (t : State) : Prop where
  events : t.events = scanEvents s v (pollFrame s).data s.prev ++ synEvents s v (pollFrame s) ++ [.flush]
  sink : t.sink = t.events.foldl Sink.apply s.sink
  prev : t.prev = (pollFrame s).data
  safe : t.safe = false
  var : t.var = .held v
  synPrev : t.synPrev = if v = .b then synCondition s.params (pollFrame s) else s.synPrev

/-- The tail of a diff cycle, after a scan from its start, ends the cycle as `DiffEnd` says. -/
theorem diffEnd_afterScan {s u : State} {v : Variant} (hu : execScan (scanStart v s) = .next u) : DiffEnd s v (afterScan u) := by
  obtain ⟨hvar, hsyn, hparams, hf, hevents, hsink⟩ := scan_of_scanStart hu
  have hcond : u.syn = synCondition s.params (pollFrame s) := by rw [State.syn, hparams, hf]
  have hsynEvents : synEvents u v u.loc.f = synEvents s v (pollFrame s) := by simp only [synEvents, hparams, hf, hsyn]
  rw [afterScan_eq hvar]
  constructor
  case events => simp only [hevents, hsynEvents]
  case sink => simp only [hevents, hsynEvents, hsink, List.append_assoc, List.foldl_append]
  case prev => exact congrArg Frame.data hf
  case safe => rfl
  case var => exact hvar
  case synPrev => simp only [hcond, hsyn]

/-- On a configuration that runs the scan of a diff cycle completes, since every entry is legal (R18, R122). -/
theorem scan_completes_of_configOk {s : State} (h : s.configOk = true) (v : Variant) :
    ∃ u, execScan (scanStart v s) = .next u :=
  scan_completes scanOrder rfl fun p =>
    Option.isSome_iff_exists.2 (Memory.legal_entry (Bool.and_eq_true_iff.1 h).1 v (linearIndex p.1 p.2))

/-- A diff cycle on a configuration that runs completes. -/
theorem step_diff_completes {s : State} {v : Variant} (h : s.configOk = true) (hd : DiffFor v s) :
    ∃ u, execScan (scanStart v s) = .next u ∧ step s = .next (afterScan u) := by
  obtain ⟨u, hu⟩ := scan_completes_of_configOk h v
  exact ⟨u, hu, by rw [step_diff h hd, hu, andThen_next]⟩

/-! ### Invariants of a step -/

/-- Settles O54: an absent cycle ends clean, since it either makes the reset or comes after it; a skipped one writes nothing; a diff
cycle ends with a variant held and `SAFE` clear. -/
theorem stepKeepsTheRestState : Obligations.StepKeepsTheRestState := by
  intro s t hs h
  have hsafeClean : s.safe = true → s.Clean := hs.1
  obtain ⟨-, ⟨-, rfl⟩ | ⟨-, rfl⟩ | ⟨v, -, u, hu, rfl⟩⟩ := step_cases h
  · have hclean : (afterAbsent s).Clean := by
      cases hsafe : s.safe
      · rw [afterAbsent_of_not_safe hsafe]
        exact enterSafeState_clean (classified s)
      · rw [afterAbsent_of_safe hsafe]
        exact hsafeClean hsafe
    exact ⟨fun _ => hclean, fun _ => hclean, fun _ => rfl⟩
  · exact hs
  · have hend := diffEnd_afterScan hu
    refine ⟨fun hsafe => ?_, fun hvar => ?_, fun hsafe => ?_⟩
    · simp [hend.safe] at hsafe
    · simp [hend.var] at hvar
    · simp [hend.safe] at hsafe

/-- A property kept by every write of the locals and by every routed entry is kept by a scan (R130). -/
theorem execScan_keeps {P : State → Prop} (hloc : ∀ s l, P s → P (s.withLoc l)) (hrouted : ∀ e cur s, P s → P (routed e cur s))
    {s t : State} (hs : P s) (h : execScan s = .next t) : P t := by
  refine forEach_keeps (fun p _ u w hu hw => ?_) hs h
  rw [visit_eq] at hw
  split at hw
  · split at hw
    · cases hw
    · split at hw
      · cases hw; exact hrouted _ _ _ (hloc _ _ hu)
      · cases hw
  · cases hw; exact hloc _ _ hu

/-- Writing a button and emitting its event keeps the mirror law (R31). -/
theorem setButton_mirrored (b : Fin 21) (x : Bool) {s : State} (hs : s.Mirrored) : (setButton b x s).Mirrored := by
  have hs' : s.sink.rep = { rb := s.btn, rh := s.hat } := hs
  cases x <;> simp [State.Mirrored, Sink.apply, Report.apply, hs']

/-- Writing the hat and emitting its event keeps the mirror law (R31). -/
theorem setHatCode_mirrored (c : HatCode) {s : State} (hs : s.Mirrored) : (setHatCode c s).Mirrored := by
  have hs' : s.sink.rep = { rb := s.btn, rh := s.hat } := hs
  simp [State.Mirrored, Sink.apply, Report.apply, hs']

theorem routed_mirrored (e : Entry) (cur : Bool) {s : State} (hs : s.Mirrored) : (routed e cur s).Mirrored := by
  cases e with
  | unmapped => exact hs
  | button b => exact setButton_mirrored b cur hs
  | hat d => exact setHatCode_mirrored _ hs

/-- The tail of a diff cycle writes at most one button, through `setButton`; FLUSH leaves the report object alone (R134, R159). -/
theorem afterScan_mirrored {u : State} (hu : u.Mirrored) : (afterScan u).Mirrored := by
  unfold afterScan
  split
  · exact setButton_mirrored _ _ hu
  · exact hu

/-- The reset leaves the sink released whatever it held (R174, R192 b). -/
theorem enterSafeState_mirrored (s : State) : (enterSafeState s).Mirrored := by
  rw [enterSafeState_spec, State.Mirrored, foldl_apply_safeResetEvents]

/-- Every step keeps the mirror law (R31). -/
theorem step_mirrored {s t : State} (hs : s.Mirrored) (h : step s = .next t) : t.Mirrored := by
  obtain ⟨-, ⟨-, rfl⟩ | ⟨-, rfl⟩ | ⟨v, -, u, hu, rfl⟩⟩ := step_cases h
  · cases hsafe : s.safe
    · rw [afterAbsent_of_not_safe hsafe]
      exact enterSafeState_mirrored (classified s)
    · rw [afterAbsent_of_safe hsafe]
      exact hs
  · exact hs
  · exact afterScan_mirrored (execScan_keeps (fun _ _ hw => hw) (fun e cur _ hw => routed_mirrored e cur hw)
      (s := scanStart v s) hs hu)

/-- The sink after a step is the step's events applied to the sink before it (R47). -/
theorem step_sink {s t : State} (h : step s = .next t) : t.sink = t.events.foldl Sink.apply s.sink := by
  obtain ⟨-, ⟨-, rfl⟩ | ⟨-, rfl⟩ | ⟨v, -, u, hu, rfl⟩⟩ := step_cases h
  · cases hsafe : s.safe
    · rw [afterAbsent_of_not_safe hsafe, enterSafeState_spec]; rfl
    · rw [afterAbsent_of_safe hsafe]; rfl
  · rfl
  · exact (diffEnd_afterScan hu).sink

/-! ### The events of a step -/

/-- Routing emits no flush (R131 to R133). -/
theorem eventOf_ne_flush (ps : Params) (cur : Bool) (e : Entry) : eventOf ps cur e ≠ some .flush := by
  cases e <;> cases cur <;> simp [eventOf]

theorem flush_not_mem_scanEvents (s : State) (v : Variant) (d d' : DataBytes) : Event.flush ∉ scanEvents s v d d' := by
  intro h
  obtain ⟨p, -, hp⟩ := List.mem_filterMap.1 h
  split at hp
  · obtain ⟨e, -, he⟩ := Option.bind_eq_some_iff.1 hp
    exact eventOf_ne_flush _ _ _ he
  · cases hp

theorem flush_not_mem_synEvents (s : State) (v : Variant) (f : Frame) : Event.flush ∉ synEvents s v f := by
  unfold synEvents
  split
  · split <;> simp
  · simp

/-- A scan emits at most one event per position (R130). -/
theorem length_scanEvents_le (s : State) (v : Variant) (d d' : DataBytes) : (scanEvents s v d d').length ≤ 32 :=
  List.length_filterMap_le _ scanOrder

theorem length_synEvents_le (s : State) (v : Variant) (f : Frame) : (synEvents s v f).length ≤ 1 := by
  unfold synEvents
  split <;> simp

/-- Settles O50: an absent cycle emits nothing or the reset, a skipped one nothing, a diff cycle at most one event per position, one
for the synthetic button, and the flush. -/
theorem cycleEventListHasOneOfThreeShapes : Obligations.CycleEventListHasOneOfThreeShapes := by
  intro s t h
  obtain ⟨-, ⟨-, rfl⟩ | ⟨-, rfl⟩ | ⟨v, -, u, hu, rfl⟩⟩ := step_cases h
  · rw [afterAbsent_events]
    cases s.safe
    · exact .inr (.inl rfl)
    · exact .inl rfl
  · exact .inl rfl
  · refine .inr (.inr ⟨_, (diffEnd_afterScan hu).events, ?_, ?_⟩)
    · have hscan := length_scanEvents_le s v (pollFrame s).data s.prev
      have hsyn := length_synEvents_le s v (pollFrame s)
      rw [List.length_append]
      omega
    · rw [List.mem_append, not_or]
      exact ⟨flush_not_mem_scanEvents _ _ _ _, flush_not_mem_synEvents _ _ _⟩

/-- A step emits nothing, or one flush after everything else. -/
theorem step_events_flush {s t : State} (h : step s = .next t) :
    t.events = [] ∨ ∃ es, t.events = es ++ [Event.flush] ∧ Event.flush ∉ es := by
  rcases cycleEventListHasOneOfThreeShapes s t h with h0 | hreset | ⟨es, hes, -, hflush⟩
  · exact .inl h0
  · refine .inr ⟨(List.finRange 21).map Event.release ++ [.setHat s.params.hatCentered], ?_, by simp⟩
    rw [hreset, safeResetEvents, List.append_assoc]
    rfl
  · exact .inr ⟨es, hes, hflush⟩

/-- Settles O56: every write of `BTN` or `HAT` comes with its event, so the report object follows; and the step's only flush, if any,
is its last event, so the report sent is the one the step ends with. -/
theorem stepKeepsTheMirrorLaw : Obligations.StepKeepsTheMirrorLaw := by
  intro s t hs h
  have ht : t.Mirrored := step_mirrored hs h
  refine ⟨ht, ?_⟩
  have hrep : t.sink.rep = { rb := t.btn, rh := t.hat } := ht
  rw [← hrep, step_sink h]
  rcases step_events_flush h with h0 | ⟨es, hes, hflush⟩
  · simp [h0]
  · simp only [hes, foldl_apply_append_flush hflush, List.mem_append, List.mem_singleton, or_true, if_true]

/-- Settles O60, by induction on the number of polls: each step's events reach the sink before the next step. -/
theorem sinkFollowsTheObservation : Obligations.SinkFollowsTheObservation := by
  intro n
  induction n with
  | zero =>
    rintro s es t h
    cases h
    rfl
  | succ n ih =>
    intro s es t h
    rw [observe] at h
    split at h
    · next u hu =>
      obtain ⟨⟨es', t'⟩, hrun, heq⟩ := Option.map_eq_some_iff.1 h
      cases heq
      rw [ih u es' _ hrun, step_sink hu, List.foldl_append]
    · cases h
    · cases h

end Sys2Proof.Machine
end

section
/-! The operations one at a time: each is an update of the state, and its frame is that update's. -/

namespace Sys2Proof.Machine

/-! ### The frames of the shared operations -/

/-- Equal tables and parameters are the same configuration (R32). -/
theorem sameConfig_of_eq {s t : State} (hrom : t.rom = s.rom) (hparams : t.params = s.params) : SameConfig s t :=
  ⟨fun v i => by rw [State.tblByte, State.tblByte, hrom], hrom, hparams⟩

/-- Writing one button: the button, its event, and nothing else (R131, R156, R157). -/
theorem setButton_frame (b : Fin 21) (x : Bool) (s : State) :
    (setButton b x s).btn[b] = x ∧ (∀ c : Fin 21, c ≠ b → (setButton b x s).btn[c] = s.btn[c]) ∧
    EmittedOne (if x then .press b else .release b) s (setButton b x s) ∧
    (setButton b x s).prev = s.prev ∧ (setButton b x s).var = s.var ∧ (setButton b x s).safe = s.safe ∧
    (setButton b x s).synPrev = s.synPrev ∧ (setButton b x s).hat = s.hat ∧ (setButton b x s).loc = s.loc ∧
    SameConfig s (setButton b x s) ∧ SameInput s (setButton b x s) := by
  refine ⟨?_, fun c hc => ?_, ⟨rfl, rfl⟩, rfl, rfl, rfl, rfl, rfl, rfl, sameConfig_of_eq rfl rfl, rfl, rfl⟩
  · simp
  · have hne : b.val ≠ c.val := fun h => hc (Fin.ext h.symm)
    simp [hne]

/-- The report object follows a button write: that button, and nothing else of it (R160). -/
theorem apply_button_event (k : Sink) (b : Fin 21) (x : Bool) :
    let k' := k.apply (if x then .press b else .release b)
    k'.rep.rb[b] = x ∧ (∀ c : Fin 21, c ≠ b → k'.rep.rb[c] = k.rep.rb[c]) ∧ k'.rep.rh = k.rep.rh ∧ k'.sent = k.sent := by
  have happly : k.apply (if x then .press b else .release b) = { k with rep := { k.rep with rb := k.rep.rb.set b x } } := by
    cases x <;> rfl
  rw [happly]
  refine ⟨?_, fun c hc => ?_, rfl, rfl⟩
  · simp
  · have hne : b.val ≠ c.val := fun h => hc (Fin.ext h.symm)
    simp [hne]

/-- Routing a hat entry: the code of the bit, its event, and nothing else (R132). -/
theorem routed_hat_frame {d : Dir} {cur : Bool} {s t : State} (ht : routed (.hat d) cur s = t) :
    t.hat = (if cur then hatconv d else s.params.hatCentered) ∧ EmittedOne (.setHat t.hat) s t ∧
    t.loc = { s.loc with code := t.hat } ∧ t.prev = s.prev ∧ t.var = s.var ∧ t.safe = s.safe ∧ t.synPrev = s.synPrev ∧
    t.btn = s.btn ∧ SameConfig s t ∧ SameInput s t := by
  subst ht
  exact ⟨rfl, ⟨rfl, rfl⟩, rfl, rfl, rfl, rfl, rfl, rfl, sameConfig_of_eq rfl rfl, rfl, rfl⟩

/-! ### The calls on the sink and the hat encoder -/

/-- Settles O17: PRESS and RELEASE are button writes, and the sink's report follows each. -/
theorem pressAndReleaseSetOneButton : Obligations.PressAndReleaseSetOneButton := by
  intro b s r hr
  obtain ⟨x, hr⟩ : ∃ x : Bool, r = (if x then .press b else .release b, x, if x then .press b else .release b) := by
    simp only [List.mem_cons, List.not_mem_nil, or_false] at hr
    rcases hr with rfl | rfl
    · exact ⟨true, rfl⟩
    · exact ⟨false, rfl⟩
  have hrun : exec (if x then .press b else .release b) s = .next (setButton b x s) := by cases x <;> rfl
  obtain ⟨hb, hc, hev, hprev, hvar, hsafe, hsyn, hhat, hloc, hcfg, hin⟩ := setButton_frame b x s
  obtain ⟨hrb, hrc, hrh, hsent⟩ := apply_button_event s.sink b x
  rw [hr]
  exact ⟨_, hrun, hb, hc, hev, hrb, hrc, hrh, hsent, hprev, hvar, hsafe, hsyn, hhat, hloc, hcfg, hin⟩

/-- Settles O18: SETHAT is one hat write. -/
theorem sethatStoresTheCanonicalCode : Obligations.SethatStoresTheCanonicalCode := by
  intro s r hr
  simp only [List.mem_cons, List.not_mem_nil, or_false] at hr
  rcases hr with rfl | rfl | rfl | rfl | rfl <;>
    exact ⟨_, rfl, rfl, ⟨rfl, rfl⟩, rfl, rfl, rfl, rfl, rfl, rfl, rfl, rfl, sameConfig_of_eq rfl rfl, rfl, rfl⟩

/-- Settles O19: FLUSH is one emission. -/
theorem flushSendsTheReportOnce : Obligations.FlushSendsTheReportOnce :=
  fun s => ⟨emit .flush s, rfl, ⟨rfl, rfl⟩, rfl, rfl, ⟨rfl, rfl, rfl, rfl, rfl, rfl⟩, rfl, sameConfig_of_eq rfl rfl, rfl, rfl⟩

/-- HATCONV as one write of the locals (R150). -/
theorem exec_hatconv (d : Dir) (s : State) : exec (.hatconv d) s = .next (s.withLoc { s.loc with code := hatconv d }) := rfl

/-- Settles O20: HATCONV is one write of the locals, and each row of the table is a direction. -/
theorem hatconvFollowsTheTable : Obligations.HatconvFollowsTheTable := by
  intro s r hr
  simp only [List.mem_cons, List.not_mem_nil, or_false] at hr
  rcases hr with rfl | rfl | rfl | rfl <;> exact ⟨_, exec_hatconv _ s, rfl, rfl, rfl, withLoc_frame s _⟩

/-! ### The change detector -/

/-- Settles O25: ROUTE_BTN is one button write. -/
theorem routeBtnWritesItsButton : Obligations.RouteBtnWritesItsButton :=
  fun b cur s => ⟨_, rfl, setButton_frame b cur s⟩

/-- ROUTE_HAT is the routing of the hat entry (R132). -/
theorem exec_routeHat (d : Dir) (cur : Bool) (s : State) : exec (.routeHat d cur) s = .next (routed (.hat d) cur s) := by
  cases cur <;> rfl

/-- Settles O26: ROUTE_HAT is the routing of the direction's entry. -/
theorem routeHatSetsOrCentres : Obligations.RouteHatSetsOrCentres := by
  intro s r hr cur
  simp only [List.mem_cons, List.not_mem_nil, or_false] at hr
  rcases hr with rfl | rfl | rfl | rfl <;> exact ⟨_, exec_routeHat _ cur s, routed_hat_frame rfl⟩

/-- The row of an entry routes it by the level of the bit at the scan position (R130, log 11). -/
theorem exec_instr (e : Entry) (s : State) : exec e.instr s = .next (routed e (curBit s) s) := by
  rw [← routeEntry_eq]
  cases e with
  | unmapped => rfl
  | button b => fin_cases b <;> rfl
  | hat d => cases d <;> rfl

/-- Settles O27: each row is the row of its button. -/
theorem buttonEntryRowsRouteTheScannedBit : Obligations.ButtonEntryRowsRouteTheScannedBit := by
  intro s
  refine ⟨rfl, fun r hr => ?_⟩
  have hrow : r.1 = (Entry.button r.2).instr := by
    revert r
    decide
  rw [hrow, exec_instr]
  exact ⟨_, rfl, setButton_frame r.2 _ s⟩

/-- Settles O28: each row is the row of its direction. -/
theorem hatEntryRowsRouteTheScannedBit : Obligations.HatEntryRowsRouteTheScannedBit := by
  intro s r hr
  simp only [List.mem_cons, List.not_mem_nil, or_false] at hr
  rcases hr with rfl | rfl | rfl | rfl
  · exact ⟨_, exec_instr (.hat .up) s, routed_hat_frame rfl⟩
  · exact ⟨_, exec_instr (.hat .down) s, routed_hat_frame rfl⟩
  · exact ⟨_, exec_instr (.hat .left) s, routed_hat_frame rfl⟩
  · exact ⟨_, exec_instr (.hat .right) s, routed_hat_frame rfl⟩

/-- The guard mask, written out (R7). -/
theorem nibbleMask_eq (g : Nibble) : g.mask = if g = .low then 0x0F else 0xF0 := by
  cases g <;> rfl

/-- Settles O33: `syn` is the condition SYNB tests, and the branch taken is one button write and `SYNPREV`. -/
theorem synbFollowsTheCondition : Obligations.SynbFollowsTheCondition := by
  intro s syn hsyn
  obtain rfl : syn = s.syn := by
    rw [hsyn, State.syn, synCondition, nibbleMask_eq]
    rfl
  refine ⟨fun hvar hne => ?_, fun h => ?_⟩
  · have hrun : exec .synb s = .next ((setButton s.params.synButton s.syn s).withSynPrev s.syn) := if_pos ⟨hvar, hne⟩
    obtain ⟨hb, hc, hev, hprev, hvar, hsafe, -, hhat, hloc, hcfg, hin⟩ := setButton_frame s.params.synButton s.syn s
    exact ⟨_, hrun, rfl, hb, hc, hev, hprev, hvar, hsafe, hhat, hloc, hcfg, hin⟩
  · exact if_neg fun hand => h.elim (fun hvar => hvar hand.1) hand.2

/-- Settles O34: COMMIT is a write of `PREV` and of `SAFE`. -/
theorem commitStoresTheFrame : Obligations.CommitStoresTheFrame :=
  fun s => ⟨clearSafe (s.withPrev s.loc.f.data), rfl, rfl, rfl, rfl, rfl, rfl, rfl, rfl, rfl, rfl, rfl,
    sameConfig_of_eq rfl rfl, ⟨rfl, rfl⟩, rfl, rfl⟩

/-! ### The identification rows, the frame reader and the operations without effect -/

/-- Settles O9: each row is one write of the locals. -/
theorem patternRowsLatchTheirClass : Obligations.PatternRowsLatchTheirClass := by
  intro f s r hr
  simp only [List.mem_cons, List.not_mem_nil, or_false] at hr
  rcases hr with rfl | rfl | rfl | rfl | rfl | rfl | rfl | rfl <;> exact ⟨_, rfl, rfl, withLoc_frame s _⟩

/-- Settles O10: the rules are those of `classOf`, with the fields written out. -/
theorem classifyFollowsTheOrderedRules : Obligations.ClassifyFollowsTheOrderedRules := by
  intro s
  refine ⟨_, exec_classify s, ?_, withLoc_frame s _⟩
  simp only [State.withLoc_loc, classOf, escape_iff, recognised_iff, List.mem_cons, List.not_mem_nil, or_false]
  rfl

/-- RDFRAME as one update (R90). -/
theorem exec_rdframe (s : State) :
    exec .rdframe s = .next
      { s with
        bus := s.bus.tail, draws := if s.bus = [] then s.draws + 1 else s.draws, loc := { s.loc with raw := nextFrame s } } := by
  have hrun : exec .rdframe s = .next ((consumeFrame s).withLoc { s.loc with raw := nextFrame s }) := rfl
  rw [hrun, consumeFrame_spec]
  rfl

/-- Settles O14: the bus holds a frame or none, and RDFRAME writes RAW and what stands on the bus. -/
theorem rdframeTakesTheNextFrame : Obligations.RdframeTakesTheNextFrame := by
  refine fun s => ⟨_, exec_rdframe s, fun r rest hbus => ?_, fun hbus => ?_, ⟨rfl, rfl, rfl, rfl, rfl, rfl⟩,
    sameConfig_of_eq rfl rfl, rfl, rfl⟩
  · simp [nextFrame, hbus]
  · simp [nextFrame, hbus]

/-- Settles O16: none of the four writes anything. -/
theorem operationsWithoutEffectComplete : Obligations.OperationsWithoutEffectComplete :=
  fun _ => ⟨rfl, rfl, rfl, rfl⟩

/-! ### The tables, LOOKUP, LOADVAR, IDSTEP and the resets -/

/-- Settles O23: the addresses of the space are the pairs', each of one pair, and a store changes what its own address reads as. -/
theorem providedEntryReadsBackAlone : Obligations.ProvidedEntryReadsBackAlone := by
  refine ⟨fun a => ⟨Memory.tableAddr_surj, ?_⟩, fun m v w i j byte hwf => ⟨?_, ?_, fun hne => ?_⟩⟩
  · rintro ⟨v, i, rfl⟩
    exact Memory.tableAddr_lt v i
  · exact Memory.insert_wf byte hwf (Memory.tableAddr_lt v i)
  · exact (Memory.read_insert byte _ hwf).trans (if_pos rfl)
  · have haddr : tableAddr w j ≠ tableAddr v i := fun h => by
      obtain ⟨rfl, rfl⟩ := Memory.tableAddr_inj h
      exact hne rfl
    exact (Memory.read_insert byte _ hwf).trans (if_neg haddr)

/-- LOOKUP by the variant held and the table byte (R121). -/
theorem exec_lookup (k : Fin 4) (i : Fin 8) (s : State) : exec (.lookup k i) s = execLookup k i s := rfl

/-- Settles O22: LOOKUP stops with no variant held, and on an illegal entry. -/
theorem lookupStopsWithoutATableOrEntry : Obligations.LookupStopsWithoutATableOrEntry := by
  refine fun s k i => ⟨fun hv => ?_, fun v hv he => ?_⟩
  · simp only [exec_lookup, execLookup, hv]
  · simp only [exec_lookup, execLookup, hv, he]

/-- Settles O35: LOADVAR tests its precondition, and from there is a write of `VAR`. -/
theorem loadvarHoldsAVariantOnlyFromAbsent : Obligations.LoadvarHoldsAVariantOnlyFromAbsent := by
  refine fun v s => ⟨fun hv => ?_, fun hv => if_neg hv⟩
  have hrun : exec (.loadvar v) s = .next (holdVariant v s) := if_pos hv
  exact ⟨_, hrun, rfl, rfl, rfl, rfl, rfl, rfl, rfl, sameConfig_of_eq rfl rfl, ⟨rfl, rfl⟩, rfl, rfl⟩

/-- Settles O37: SAFERESET is the safe-state reset. -/
theorem saferesetForcesTheSafeState : Obligations.SaferesetForcesTheSafeState := by
  intro s
  have hrun : exec .safereset s = .next (enterSafeState s) := rfl
  rw [enterSafeState_spec] at hrun
  refine ⟨_, hrun, fun b => ?_, rfl, fun k => ?_, rfl, rfl, rfl, rfl, rfl, sameConfig_of_eq rfl rfl, rfl, rfl⟩
  · simp
  · simp

/-- Settles O38: the reset's events leave the released report in any sink and send it once. -/
theorem saferesetSynchronisesTheSink : Obligations.SaferesetSynchronisesTheSink := by
  refine fun s => ⟨enterSafeState s, rfl, enterSafeState_mirrored s, ?_⟩
  rw [enterSafeState_spec, foldl_apply_safeResetEvents]

/-- Settles O39: PORESET takes each register from the reset state, and the rest from the state before. -/
theorem poresetRestoresTheResetValues : Obligations.PoresetRestoresTheResetValues := by
  refine fun s => ⟨_, rfl, rfl, rfl, ?_, rfl, ?_, rfl, rfl, rfl, sameConfig_of_eq rfl rfl, rfl, rfl⟩
  · show ∀ k : Fin 4, State.reset.prev[k] = 0
    decide
  · show ∀ b : Fin 21, State.reset.btn[b] = false
    decide

/-- IDSTEP on an absent frame (R108). -/
theorem exec_idstep_absent {s : State} (hc : s.loc.cls = .absent) :
    exec .idstep s = .next (takePath .absentPath ((if s.safe then s else enterSafeState s).withVar .absent)) := by
  have hrun : exec .idstep s = execIdstep s := rfl
  cases hs : s.safe <;> simp [hrun, execIdstep, hc, hs, execSafereset]

/-- IDSTEP on an unmatched frame (R108). -/
theorem exec_idstep_noMatch {s : State} (hc : s.loc.cls = .noMatch) : exec .idstep s = .next (takePath .skip s) := by
  have hrun : exec .idstep s = execIdstep s := rfl
  simp only [hrun, execIdstep, hc]

/-- IDSTEP on a match with no variant held (R108, R109). -/
theorem exec_idstep_loads {s : State} {v : Variant} (hc : s.loc.cls = .matched v) (hv : s.var = .absent) :
    exec .idstep s = .next (takePath .diff (s.withVar (.held v))) := by
  have hrun : exec .idstep s = execIdstep s := rfl
  simp [hrun, execIdstep, hc, hv, execLoadvar, holdVariant]

/-- IDSTEP on a match with a variant held (R108). -/
theorem exec_idstep_held {s : State} {v w : Variant} (hc : s.loc.cls = .matched v) (hw : s.var = .held w) :
    exec .idstep s = .next (takePath (if w = v then .diff else .skip) s) := by
  have hrun : exec .idstep s = execIdstep s := rfl
  simp [hrun, execIdstep, hc, hw]

/-- Settles O36, class by class: Absent makes the reset where none was made, NoMatch chooses a path, a match holds a variant where
none is held. -/
theorem idstepChoosesThePath : Obligations.IdstepChoosesThePath := by
  intro s
  cases hc : s.loc.cls with
  | absent =>
    refine ⟨_, exec_idstep_absent hc, ?_⟩
    cases hs : s.safe
    · simp only [Bool.false_eq_true, if_false, enterSafeState_spec]
      exact ⟨sameConfig_of_eq rfl rfl, ⟨rfl, rfl⟩,
        fun _ => ⟨rfl, rfl, nofun, fun _ => ⟨⟨rfl, rfl, rfl, rfl⟩, rfl, rfl, rfl⟩⟩, nofun, nofun⟩
    · simp only [if_true]
      exact ⟨sameConfig_of_eq rfl rfl, ⟨rfl, rfl⟩,
        fun _ => ⟨rfl, rfl, fun _ => ⟨rfl, hs, rfl, rfl, rfl, rfl, rfl⟩, nofun⟩, nofun, nofun⟩
  | noMatch =>
    exact ⟨_, exec_idstep_noMatch hc, sameConfig_of_eq rfl rfl, ⟨rfl, rfl⟩, nofun, fun _ => rfl, nofun⟩
  | matched v =>
    cases hv : s.var with
    | absent =>
      refine ⟨_, exec_idstep_loads hc hv, sameConfig_of_eq rfl rfl, ⟨rfl, rfl⟩, nofun, nofun, fun v' hv' => ?_⟩
      cases hv'
      exact ⟨fun _ => rfl, nofun, nofun⟩
    | held w =>
      refine ⟨_, exec_idstep_held hc hv, sameConfig_of_eq rfl rfl, ⟨rfl, rfl⟩, nofun, nofun, fun v' hv' => ?_⟩
      cases hv'
      refine ⟨nofun, fun hwv => ?_, fun w' hw' hne => ?_⟩
      · cases hwv
        rw [if_pos rfl]
        rfl
      · cases hw'
        rw [if_neg hne]
        rfl

end Sys2Proof.Machine
end

section
/-! A scan: what each visit runs, what the scan reports, and which visit decides a button and the hat (R130 to R139). -/

namespace Sys2Proof.Machine

/-- A visit under a held variant whose entry for the position is legal. -/
theorem visit_of_legal {s : State} {v : Variant} {p : Fin 4 × Fin 8} {e : Entry} (hv : s.var = .held v)
    (he : entryAt s v p = some e) :
    visit p s =
      if changedAt s.loc.f.data s.prev p then
        .next (routed e (levelAt s.loc.f.data p) (s.withLoc { s.loc with byteIndex := p.1, bitIndex := p.2, entry := e }))
      else .next (moveScan p s) := by
  rw [visit_eq]
  simp only [hv, he]

/-- Settles O30: the table byte decodes to the row of its entry, and the row routes the level of the bit at the scan position. -/
theorem scanVisitRunsTheDecodedEntry : Obligations.ScanVisitRunsTheDecodedEntry := by
  intro s v p e hv he
  rw [visit_of_legal hv he, decodeEntry_of_legal he, exec_instr]
  rfl

/-- Settles O31: the scan of the 32 positions completes, reports each position's event, and leaves the rest alone. -/
theorem scanReportsChangesInVisitingOrder : Obligations.ScanReportsChangesInVisitingOrder := by
  refine ⟨by decide, fun s v hv hl => ?_⟩
  obtain ⟨t, ht⟩ := scan_completes scanOrder hv hl
  obtain ⟨hevents, hsink⟩ := scan_events scanOrder hv ht
  obtain ⟨hprev, hvar, hsafe, hsyn, hrom, hparams, hbus, hdraws, hf, hraw, hcls, hpath⟩ := scan_frame ht
  exact ⟨t, ht, hevents, hsink, hprev, hvar, hsafe, hsyn, hf, hraw, hcls, hpath, sameConfig_of_eq hrom hparams, hbus, hdraws⟩

/-- The bit at a position differs and is mapped to button `b`. -/
def writesButton (s : State) (v : Variant) (b : Fin 21) (p : Fin 4 × Fin 8) : Bool :=
  changedAt s.loc.f.data s.prev p && (entryAt s v p == some (.button b))

/-- What a visit of a position writes to the hat, if anything (R132). -/
def hatWrite (s : State) (v : Variant) (p : Fin 4 × Fin 8) : Option HatCode :=
  match entryAt s v p with
  | some (.hat d) =>
    if changedAt s.loc.f.data s.prev p then some (if levelAt s.loc.f.data p then hatconv d else s.params.hatCentered) else none
  | _ => none

/-- One visit writes the buttons and the hat by its own bit alone (R131, R132). -/
theorem visit_writes {p : Fin 4 × Fin 8} {s u : State} {v : Variant} (hv : s.var = .held v) (h : visit p s = .next u) :
    (∀ b : Fin 21, u.btn[b] = if writesButton s v b p then levelAt s.loc.f.data p else s.btn[b]) ∧
    u.hat = (hatWrite s v p).getD s.hat := by
  rw [visit_eq] at h
  split at h
  · next hc =>
    simp only [hv] at h
    split at h
    · next e he =>
      cases h
      refine ⟨fun b => ?_, ?_⟩
      · rw [routed_btn]
        simp [writesButton, hc, he]
      · rw [routed_hat]
        cases e <;> simp [hatWrite, hc, he]
    · cases h
  · next hc =>
    cases h
    have hhat : hatWrite s v p = none := by
      unfold hatWrite
      split <;> simp [hc]
    exact ⟨fun b => by simp [writesButton, hc, moveScan], by rw [hhat]; rfl⟩

/-- What a visit leaves alone is what the later visits read. -/
theorem visit_keeps_writes {p : Fin 4 × Fin 8} {s u : State} (v : Variant) (h : visit p s = .next u) :
    (∀ b, writesButton u v b = writesButton s v b) ∧ hatWrite u v = hatWrite s v ∧ levelAt u.loc.f.data = levelAt s.loc.f.data := by
  obtain ⟨hprev, -, -, -, hrom, hparams, -, -, hf, -⟩ := visit_frame h
  refine ⟨fun b => funext fun q => ?_, funext fun q => ?_, by rw [hf]⟩
  · simp only [writesButton, entryAt_congr hrom, hf, hprev]
  · simp only [hatWrite, entryAt_congr hrom, hf, hprev, hparams]

/-- After a scan of any list of positions a button is the level of the last one that wrote it (R139). -/
theorem scan_btn (ps : List (Fin 4 × Fin 8)) {s t : State} {v : Variant} (hv : s.var = .held v)
    (h : forEach visit ps s = .next t) (b : Fin 21) :
    t.btn[b] = (ps.filter (writesButton s v b)).getLast?.elim s.btn[b] (levelAt s.loc.f.data) := by
  induction ps generalizing s with
  | nil => cases h; rfl
  | cons p ps ih =>
    obtain ⟨u, hu, hr⟩ := andThen_eq_next.1 h
    obtain ⟨-, hvar, -⟩ := visit_frame hu
    obtain ⟨hbtn, -⟩ := visit_writes hv hu
    obtain ⟨hsame, -, hlevel⟩ := visit_keeps_writes v hu
    rw [ih (hvar.trans hv) hr, hbtn, hsame, hlevel]
    cases hp : writesButton s v b p
    · simp [hp]
    · simp only [List.filter_cons, hp, if_true, List.getLast?_cons]
      cases (ps.filter (writesButton s v b)).getLast? <;> rfl

/-- After a scan of any list of positions the hat is what the last one that wrote it set (R132, R139). -/
theorem scan_hat (ps : List (Fin 4 × Fin 8)) {s t : State} {v : Variant} (hv : s.var = .held v)
    (h : forEach visit ps s = .next t) : t.hat = (ps.filterMap (hatWrite s v)).getLast?.getD s.hat := by
  induction ps generalizing s with
  | nil => cases h; rfl
  | cons p ps ih =>
    obtain ⟨u, hu, hr⟩ := andThen_eq_next.1 h
    obtain ⟨-, hvar, -⟩ := visit_frame hu
    obtain ⟨-, hhat⟩ := visit_writes hv hu
    obtain ⟨-, hsame, -⟩ := visit_keeps_writes v hu
    rw [ih (hvar.trans hv) hr, hhat, hsame]
    cases hp : hatWrite s v p
    · simp [hp]
    · simp only [List.filterMap_cons, hp, List.getLast?_cons]
      rfl

/-- Settles O32: the induction over the positions, for the scan's order. -/
theorem scanLastVisitDecides : Obligations.ScanLastVisitDecides := by
  intro s t v hv h
  refine ⟨fun b => scan_btn scanOrder hv h b, ?_⟩
  rw [scan_hat scanOrder hv h]
  rfl

end Sys2Proof.Machine
end

section
/-! One poll: when it completes (R18, R122), what it runs (R155), and what each path of it does (R107 to R112, R130 to R137). -/

namespace Sys2Proof.Machine

/-! ### Completion -/

/-- Every entry is legal exactly when the 96 bytes of the table space are (R46, R122). -/
theorem legal_iff (m : Memory) : m.legal = true ↔ ∀ v i, ∃ e, Entry.ofByte (m.read (tableAddr v i)) = some e := by
  refine ⟨Memory.legal_entry, fun h => List.all_eq_true.2 fun a ha => ?_⟩
  obtain ⟨v, i, rfl⟩ := Memory.tableAddr_surj (List.mem_range.1 ha)
  exact Option.isSome_iff_exists.2 (h v i)

/-- Settles O45: the two checks of a configuration, the tables' and the parameters'. -/
theorem configurationIsOkWhenEveryEntryIsLegal : Obligations.ConfigurationIsOkWhenEveryEntryIsLegal := by
  intro s
  have hparams : s.params.wf = true ↔ ¬ (1 ≤ s.params.hatCentered.toNat ∧ s.params.hatCentered.toNat ≤ 8) := by
    rw [Params.wf, decide_eq_true_eq]
    omega
  rw [State.configOk, Bool.and_eq_true, legal_iff, hparams]
  rfl

/-- The check reads the tables and the parameters only (R122). -/
theorem configOk_congr {s t : State} (hrom : t.rom = s.rom) (hparams : t.params = s.params) : t.configOk = s.configOk := by
  rw [State.configOk, State.configOk, hrom, hparams]

/-- An ill-formed configuration is refused (R122, log 13). -/
theorem step_of_not_configOk {s : State} (h : s.configOk = false) : step s = .refused .illFormedConfig := by
  simp [step, exec, execPoll, h]

/-- A table with an illegal byte is refused (R77, R122, log 13). -/
theorem step_of_illegal_entry {s : State} {v : Variant} {i : Fin 32} (h : Entry.ofByte (s.tblByte v i) = none) :
    step s = .refused .illFormedConfig := by
  refine step_of_not_configOk (Bool.eq_false_iff.2 fun hcfg => ?_)
  obtain ⟨e, he⟩ := ((configurationIsOkWhenEveryEntryIsLegal s).1 hcfg).1 v i
  rw [h] at he
  cases he

/-- Settles O29: the illegal row stops, and a byte of the two ranges holds no entry. -/
theorem illegalEntriesAreRefused : Obligations.IllegalEntriesAreRefused :=
  fun _ => ⟨fun _ => rfl, fun _ _ h => step_of_illegal_entry ((ofByte_eq_none_iff _).2 h)⟩

/-- A poll on a well-formed configuration completes (R18). -/
theorem step_completes {s : State} (h : s.configOk = true) : ∃ t, step s = .next t := by
  rcases cycle_cases s with hc | hk | ⟨v, hd⟩
  · exact ⟨_, step_absent h hc⟩
  · exact ⟨_, step_skipped h hk⟩
  · obtain ⟨u, -, ht⟩ := step_diff_completes h hd
    exact ⟨_, ht⟩

/-- What every step takes from the input and leaves of the tables, on each path (R32, R90, R100). -/
theorem step_input {s t : State} (h : step s = .next t) :
    t.rom = s.rom ∧ t.bus = s.bus.tail ∧ t.draws = (if s.bus = [] then s.draws + 1 else s.draws) ∧
    t.loc.raw = nextFrame s ∧ t.loc.f = pollFrame s ∧ t.loc.cls = pollClass s := by
  obtain ⟨-, ⟨-, rfl⟩ | ⟨-, rfl⟩ | ⟨v, -, u, hu, rfl⟩⟩ := step_cases h
  · cases hsafe : s.safe
    · rw [afterAbsent_of_not_safe hsafe, enterSafeState_spec]
      exact ⟨rfl, rfl, rfl, rfl, rfl, rfl⟩
    · rw [afterAbsent_of_safe hsafe]
      exact ⟨rfl, rfl, rfl, rfl, rfl, rfl⟩
  · exact ⟨rfl, rfl, rfl, rfl, rfl, rfl⟩
  · obtain ⟨-, hvar, -, -, hrom, -, hbus, hdraws, hf, hraw, hcls, -⟩ := scan_frame hu
    rw [afterScan_eq hvar]
    exact ⟨hrom, hbus, hdraws, hraw, hf, hcls⟩

/-- Settles O44: a well-formed configuration runs to the end on every path, an ill-formed one is refused at the start. -/
theorem everyPollCompletes : Obligations.EveryPollCompletes := by
  refine fun s => ⟨fun hcfg => ?_, step_of_not_configOk, fun x hx => ?_⟩
  · obtain ⟨t, ht⟩ := step_completes hcfg
    obtain ⟨hrom, hbus, hdraws, hraw, hf, hcls⟩ := step_input ht
    exact ⟨t, ht, ht, sameConfig_of_eq hrom (step_params ht), hbus, hdraws, hraw, hf, hcls⟩
  · cases hcfg : s.configOk
    · rw [step_of_not_configOk hcfg] at hx; cases hx
    · obtain ⟨t, ht⟩ := step_completes hcfg
      rw [ht] at hx; cases hx

/-! ### What a poll runs -/

/-- Settles O41: what stands before IDSTEP always completes, and after it the path's operations are `runPath`. -/
theorem pollSequencesTheOperations : Obligations.PollSequencesTheOperations := by
  intro s h
  simp only [step, exec, execPoll, h, if_true, readFrame, execRdframe, execInvert, execObserve, execClassify, andThen_next,
    actOnClass]
  rfl

/-- The row a frame decodes to latches the frame and its class (R66, R100). -/
theorem exec_decodeFrame (f : Frame) (s : State) : exec (decodeFrame f) s = .next (latchRow f (classOf f) s) := by
  rw [classOf_eq_first_row, decodeFrame]
  split_ifs <;> rfl

/-- A step is the row of its frame, then IDSTEP and the path (R155, log 8, log 10). -/
theorem step_eq_exec_decodeFrame {s : State} (h : s.configOk = true) :
    step s = andThen (exec (decodeFrame (pollFrame s)) (fetched s)) actOnClass := by
  rw [poll_eq s h, exec_decodeFrame]
  rfl

/-- Settles O42: what the bytes of a frame decode to is the frame's row. -/
theorem stepRunsTheDecodedFrame : Obligations.StepRunsTheDecodedFrame := by
  intro s i h hi
  rw [decode_frame] at hi
  cases hi
  exact step_eq_exec_decodeFrame h

/-! ### The three paths -/

/-- The end of a step whose frame is absent. -/
theorem eq_afterAbsent {s t : State} (h : step s = .next t) (hc : pollClass s = .absent) : t = afterAbsent s :=
  Host.Outcome.next.inj (h.symm.trans (step_absent (step_cases h).1 hc))

/-- The end of a step that is skipped. -/
theorem eq_afterSkip {s t : State} (h : step s = .next t) (hk : Skipped s) : t = afterSkip s :=
  Host.Outcome.next.inj (h.symm.trans (step_skipped (step_cases h).1 hk))

/-- The end of a step that is a diff cycle. -/
theorem diffEnd_of_step {s t : State} {v : Variant} (h : step s = .next t) (hd : DiffFor v s) : DiffEnd s v t := by
  obtain ⟨u, hu, ht⟩ := step_diff_completes (step_cases h).1 hd
  rw [h] at ht
  cases ht
  exact diffEnd_afterScan hu

/-- Settles O46, by the path each class and held variant choose. -/
theorem identifierTransitions : Obligations.IdentifierTransitions := by
  intro s t h
  refine ⟨fun hc => ?_, fun hc => ?_, fun v hc => ⟨fun hv => ?_, fun hv => ?_, fun w hv hne => ?_⟩⟩
  · rw [eq_afterAbsent h hc]
    exact ⟨rfl, afterAbsent_events s⟩
  · rw [eq_afterSkip h (.inl hc)]
    exact ⟨rfl, rfl⟩
  · exact (diffEnd_of_step h ⟨hc, .inl hv⟩).var
  · exact (diffEnd_of_step h ⟨hc, .inr hv⟩).var
  · rw [eq_afterSkip h (.inr ⟨w, v, hc, hv, hne.symm⟩)]
    exact ⟨hv, rfl⟩

/-- Settles O47: a skipped cycle ends in `afterSkip`. -/
theorem skippedCycleHoldsEverything : Obligations.SkippedCycleHoldsEverything := by
  intro s t hk h
  rw [eq_afterSkip h hk]
  exact afterSkip_frame s

/-- Settles O58: only an absent cycle and a diff cycle from no variant change `VAR`, and a skipped one emits nothing. -/
theorem variantChangesOnlyThroughAbsent : Obligations.VariantChangesOnlyThroughAbsent := by
  intro s t h
  obtain ⟨-, ⟨hc, rfl⟩ | ⟨-, rfl⟩ | ⟨v, hd, u, hu, rfl⟩⟩ := step_cases h
  · refine ⟨fun _ => .inl ⟨hc, rfl⟩, fun hev => .inr ⟨hc, ?_⟩⟩
    rw [afterAbsent_events] at hev
    cases hs : s.safe
    · rfl
    · rw [hs] at hev
      exact absurd rfl hev
  · exact ⟨fun hv => absurd rfl hv, fun hev => absurd rfl hev⟩
  · have hvar : (afterScan u).var = .held v := (diffEnd_afterScan hu).var
    obtain ⟨hc, hv⟩ := hd
    refine ⟨fun hne => .inr ⟨v, hc, ?_, hvar⟩, fun _ => .inl ⟨v, ⟨hc, hv⟩, hc, hvar⟩⟩
    exact hv.resolve_right fun hheld => hne (hvar.trans hheld.symm)

/-! ### Diff cycles -/

/-- Settles O48: a diff cycle completes, and `DiffEnd` says how. -/
theorem diffCycleReportsExactlyTheChanges : Obligations.DiffCycleReportsExactlyTheChanges := by
  intro s v hcfg hd
  obtain ⟨u, hu, ht⟩ := step_diff_completes hcfg hd
  have hend := diffEnd_afterScan hu
  exact ⟨_, ht, hend.events, hend.prev, hend.safe, hend.var, hend.synPrev⟩

/-- No bit of a frame differs from itself. -/
@[simp] theorem changedAt_self (d : DataBytes) (p : Fin 4 × Fin 8) : changedAt d d p = false := by
  simp [changedAt]

/-- Against zero a bit differs exactly when it is active. -/
theorem changedAt_zero (d : DataBytes) (p : Fin 4 × Fin 8) : changedAt d (Vector.replicate 4 0) p = levelAt d p := by
  simp [changedAt, levelAt, bitOf]

/-- A scan of a frame against itself reports nothing (R137). -/
theorem scanEvents_self (s : State) (v : Variant) (d : DataBytes) : scanEvents s v d d = [] := by
  simp [scanEvents]

/-- A scan of a frame against itself writes no button and not the hat (R137). -/
theorem scan_of_unchanged {s u : State} {v : Variant} (hv : s.var = .held v) (hsame : s.loc.f.data = s.prev)
    (h : execScan s = .next u) : u.btn = s.btn ∧ u.hat = s.hat := by
  have hbtn : ∀ b, writesButton s v b = fun _ => false := fun b => by
    funext p; simp [writesButton, hsame]
  have hhat : hatWrite s v = fun _ => none := by
    funext p; unfold hatWrite; split <;> simp [hsame]
  refine ⟨?_, ?_⟩
  · ext i hi
    have hi' := scan_btn scanOrder hv h ⟨i, hi⟩
    rw [hbtn] at hi'
    simpa using hi'
  · rw [scan_hat scanOrder hv h, hhat]
    simp

/-- The synthetic button emits nothing where its condition is as it was left (R134). -/
theorem synEvents_of_settled {s : State} {v : Variant} {f : Frame} (h : v = .b → synCondition s.params f = s.synPrev) :
    synEvents s v f = [] :=
  if_neg fun hc => hc.2 (h hc.1)

/-- Settles O49: the second cycle diffs the frame against itself, and finds the condition of the synthetic button as it left it. -/
theorem repeatedFrameEmitsOnlyAFlush : Obligations.RepeatedFrameEmitsOnlyAFlush := by
  intro s t v hd h hnext
  have hframe : pollFrame t = pollFrame s := by rw [pollFrame, hnext, pollFrame]
  have hend := diffEnd_of_step h hd
  obtain ⟨hcfg, -⟩ := step_cases h
  obtain ⟨hrom, -⟩ := step_input h
  have hcfg' : t.configOk = true := (configOk_congr hrom (step_params h)).trans hcfg
  have hd' : DiffFor v t := ⟨by rw [pollClass, hframe]; exact hd.1, .inr hend.var⟩
  obtain ⟨w, hw, hu⟩ := step_diff_completes hcfg' hd'
  have hend' := diffEnd_afterScan hw
  have hdata : (pollFrame t).data = t.prev := by rw [hframe, hend.prev]
  have hsettled : v = .b → synCondition t.params (pollFrame t) = t.synPrev := fun hvb => by
    rw [hend.synPrev, if_pos hvb, step_params h, hframe]
  obtain ⟨hbtn, hhat⟩ := scan_of_unchanged (s := scanStart v t) rfl hdata hw
  refine ⟨_, hu, ?_, hend'.prev.trans hdata, hend'.var.trans hend.var.symm, hend'.safe.trans hend.safe.symm, ?_, ?_, ?_⟩
  · rw [hend'.events, hdata, scanEvents_self, synEvents_of_settled hsettled]
    rfl
  · rw [hend'.synPrev]
    split
    · next hvb => exact hsettled hvb
    · rfl
  · obtain ⟨hvar, hsyn, hparams, hf, -⟩ := scan_of_scanStart hw
    have hidle : ¬ (v = .b ∧ w.syn ≠ w.synPrev) := fun hc => hc.2 (by
      rw [State.syn, hparams, hf, hsyn]
      exact hsettled hc.1)
    rw [afterScan_eq hvar]
    exact (if_neg hidle).trans hbtn
  · obtain ⟨hvar, -⟩ := scan_of_scanStart hw
    rw [afterScan_eq hvar]
    exact hhat

/-- Settles O51: the frame is diffed against zero, so the changed bits are the active ones. -/
theorem reidentificationReportsActiveBits : Obligations.ReidentificationReportsActiveBits := by
  intro s v hcfg hclean hv hc
  obtain ⟨hprev, -⟩ := hclean
  obtain ⟨u, hu, ht⟩ := step_diff_completes hcfg ⟨hc, .inl hv⟩
  have hend := diffEnd_afterScan hu
  refine ⟨_, ht, hend.var, hend.safe, ?_⟩
  rw [hend.events, scanEvents, hprev]
  congr 2
  refine List.filterMap_congr fun p _ => ?_
  rw [changedAt_zero]
  split
  · next hp => rw [hp]
  · rfl

/-- Every position is visited (R130). -/
theorem mem_scanOrder (p : Fin 4 × Fin 8) : p ∈ scanOrder := by
  revert p; decide

/-- A changed mapped bit is reported (R130, R131). -/
theorem mem_scanEvents {s : State} {v : Variant} {d d' : DataBytes} {p : Fin 4 × Fin 8} {e : Entry} {x : Event}
    (hp : changedAt d d' p = true) (he : entryAt s v p = some e) (hx : eventOf s.params (levelAt d p) e = some x) :
    x ∈ scanEvents s v d d' :=
  List.mem_filterMap.2 ⟨p, mem_scanOrder p, by rw [if_pos hp, he, Option.bind_some, hx]⟩

/-- Settles O52: the cleared bit is a changed one of level 0, and button 1 is its entry. -/
theorem leftPaddleReleaseIsReported : Obligations.LeftPaddleReleaseIsReported := by
  intro s hcfg hv hc
  have hrelease : ∀ i : Fin 8, entryAt s .a (0, i) = some (.button 1) → s.prev[0].getLsbD i = true →
      (pollFrame s)[0].getLsbD i = false → ∃ t, step s = .next t ∧ Event.release 1 ∈ t.events := by
    intro i he hprev hnow
    obtain ⟨u, hu, ht⟩ := step_diff_completes hcfg ⟨hc, .inr hv⟩
    have hlevel : levelAt (pollFrame s).data (0, i) = false := hnow
    have hbefore : levelAt s.prev (0, i) = true := hprev
    refine ⟨_, ht, ?_⟩
    rw [(diffEnd_afterScan hu).events, List.append_assoc]
    refine List.mem_append_left _ (mem_scanEvents (p := (0, i)) ?_ he ?_)
    · rw [changedAt, hlevel, hbefore]; rfl
    · rw [hlevel]; rfl
  refine ⟨hrelease, ?_⟩
  rintro ⟨-, i, hi, he⟩
  exact ⟨i, hi, he, hrelease i he⟩

/-! ### Cycles that match nothing -/

/-- An unmatched cycle in the safe state writes nothing and emits nothing (R108). -/
theorem step_unmatched {s : State} (hcfg : s.configOk = true) (hsafe : s.safe = true) (hv : s.var = .absent)
    (hc : ∀ v, pollClass s ≠ .matched v) : ∃ t, step s = .next t ∧ SameRegisters s t ∧ t.events = [] ∧ t.sink = s.sink := by
  cases hcls : pollClass s with
  | absent =>
    refine ⟨_, step_absent hcfg hcls, ?_⟩
    rw [afterAbsent_of_safe hsafe]
    exact ⟨⟨rfl, hv.symm, rfl, rfl, rfl, rfl⟩, rfl, rfl⟩
  | noMatch => exact ⟨_, step_skipped hcfg (.inl hcls), afterSkip_frame s⟩
  | matched v => exact absurd hcls (hc v)

theorem SameRegisters.trans {s t u : State} (hst : SameRegisters s t) (htu : SameRegisters t u) : SameRegisters s u := by
  obtain ⟨h1, h2, h3, h4, h5, h6⟩ := hst
  obtain ⟨k1, k2, k3, k4, k5, k6⟩ := htu
  exact ⟨k1.trans h1, k2.trans h2, k3.trans h3, k4.trans h4, k5.trans h5, k6.trans h6⟩

/-- Settles O59, by induction on the frames: a cycle of the episode leaves the registers, so the next one starts alike. -/
theorem noRepeatedResetWhileUnmatched : Obligations.NoRepeatedResetWhileUnmatched := by
  intro frames
  induction frames with
  | nil => exact fun s _ _ _ _ _ => ⟨s, rfl, ⟨rfl, rfl, rfl, rfl, rfl, rfl⟩, rfl⟩
  | cons r rest ih =>
    intro s hcfg hsafe hv hbus hall
    have hframe : pollClass s = classOf r.invert := by rw [pollClass, pollFrame, nextFrame, hbus]
    obtain ⟨t, ht, hregs, hev, hsink⟩ := step_unmatched hcfg hsafe hv fun v => hframe ▸ hall r (by simp) v
    have ⟨_, hvar', hsafe', _⟩ := hregs
    obtain ⟨hrom, hbus', -⟩ := step_input ht
    obtain ⟨u, hu, hregs', hsink'⟩ := ih t ((configOk_congr hrom (step_params ht)).trans hcfg) (hsafe'.trans hsafe)
      (hvar'.trans hv) (by rw [hbus', hbus]; rfl) fun q hq => hall q (by simp [hq])
    refine ⟨u, ?_, hregs.trans hregs', hsink'.trans hsink⟩
    simp [observe, ht, hu, hev]

/-! ### Reset -/

/-- Settles O40: the reset state is written out. -/
theorem resetStateHoldsTheResetValues : Obligations.ResetStateHoldsTheResetValues := by
  unfold Obligations.ResetStateHoldsTheResetValues
  decide

/-- Settles O53: the reset state is released, centred and mirrored, and its tables are empty. -/
theorem resetMeetsTheRestState : Obligations.ResetMeetsTheRestState := by
  have hclean : State.reset.Clean := ⟨by decide, by decide, by decide, by decide⟩
  exact ⟨⟨fun _ => hclean, fun _ => hclean, fun _ => rfl⟩, .inl rfl, rfl, by decide, by decide⟩

end Sys2Proof.Machine
end

section
/-! What no instruction writes, and what none reads: the configuration (R32, R50, R202) and the sink (R162). -/

namespace Sys2Proof.Machine

/-! ### The configuration -/

/-- What an entry row does is the routing of its entry. -/
theorem exec_of_entry? {i : Instr} {e : Entry} (h : i.entry? = some e) (s : State) :
    exec i s = .next (routed e (curBit s) s) := by
  rw [eq_instr_of_entry? h, exec_instr]

theorem execIdstep_config {s t : State} (h : exec .idstep s = .next t) : t.rom = s.rom ∧ t.params = s.params := by
  cases hc : s.loc.cls with
  | absent =>
    rw [exec_idstep_absent hc, enterSafeState_spec] at h
    cases h
    cases s.safe <;> exact ⟨rfl, rfl⟩
  | noMatch =>
    rw [exec_idstep_noMatch hc] at h
    cases h
    exact ⟨rfl, rfl⟩
  | matched v =>
    cases hv : s.var with
    | absent =>
      rw [exec_idstep_loads hc hv] at h
      cases h
      exact ⟨rfl, rfl⟩
    | held w =>
      rw [exec_idstep_held hc hv] at h
      cases h
      exact ⟨rfl, rfl⟩

theorem execLookup_config {k : Fin 4} {i : Fin 8} {s t : State} (h : execLookup k i s = .next t) :
    t.rom = s.rom ∧ t.params = s.params := by
  unfold execLookup at h
  split at h
  · cases h
  · split at h
    · cases h; exact ⟨rfl, rfl⟩
    · cases h

theorem execSynb_config {s t : State} (h : execSynb s = .next t) : t.rom = s.rom ∧ t.params = s.params := by
  unfold execSynb at h
  split at h
  · cases h; exact ⟨rfl, rfl⟩
  · cases h; exact ⟨rfl, rfl⟩

theorem execLoadvar_config {v : Variant} {s t : State} (h : execLoadvar v s = .next t) : t.rom = s.rom ∧ t.params = s.params := by
  unfold execLoadvar at h
  split at h
  · cases h; exact ⟨rfl, rfl⟩
  · cases h

/-- No instruction that completes writes the tables or the parameters (R32). -/
theorem exec_config {i : Instr} {s t : State} (h : exec i s = .next t) : t.rom = s.rom ∧ t.params = s.params := by
  cases hi : i.entry? with
  | some e =>
    rw [exec_of_entry? hi] at h
    cases h
    obtain ⟨-, -, -, -, hrom, hparams, -⟩ := routed_frame e (curBit s) s
    exact ⟨hrom, hparams⟩
  | none =>
    cases i
    all_goals simp only [Instr.entry?, reduceCtorEq] at hi
    case rdframe =>
      rw [exec_rdframe] at h
      cases h
      exact ⟨rfl, rfl⟩
    case idstep => exact execIdstep_config h
    case loadvar v => exact execLoadvar_config h
    case lookup k i => exact execLookup_config h
    case scan =>
      obtain ⟨-, -, -, -, hrom, hparams, -⟩ := scan_frame h
      exact ⟨hrom, hparams⟩
    case routeHat d cur =>
      rw [exec_routeHat] at h
      cases h
      exact ⟨rfl, rfl⟩
    case synb => exact execSynb_config h
    case poll =>
      obtain ⟨hrom, -⟩ := step_input h
      exact ⟨hrom, step_params h⟩
    case safereset =>
      have hrun : exec .safereset s = .next (enterSafeState s) := rfl
      rw [hrun, enterSafeState_spec] at h
      cases h
      exact ⟨rfl, rfl⟩
    case entryIllegal v => cases h
    all_goals
      cases h
      exact ⟨rfl, rfl⟩

/-- Settles O24: no operation writes the tables or the parameters. -/
theorem noInstructionWritesTheConfiguration : Obligations.NoInstructionWritesTheConfiguration := by
  intro i s t h
  obtain ⟨hrom, hparams⟩ := exec_config h
  exact sameConfig_of_eq hrom hparams

/-! ### The sink -/

/-- The same machine with another sink. -/
def State.withSink (s : State) (k : Sink) : State := { s with sink := k }

/-- The same answer with another sink in the next state, if there is one. -/
def answerWithSink (k : Sink) : Result → Result
  | .next t => .next (t.withSink k)
  | .fault x => .fault x
  | .refused x => .refused x

/-- The operation answers alike whatever the sink holds, and leaves the same state but for the sink (R162). -/
def SinkBlind (op : State → Result) : Prop := ∀ s k, ∃ k', op (s.withSink k) = answerWithSink k' (op s)

namespace SinkBlind

/-- An operation that completes with an update of the rest of the state. -/
theorem update {g : State → State} (h : ∀ s k, ∃ k', g (s.withSink k) = (g s).withSink k') : SinkBlind fun s => .next (g s) :=
  fun s k => by
    obtain ⟨k', hk⟩ := h s k
    exact ⟨k', congrArg Host.Outcome.next hk⟩

/-- An operation that leaves the sink alone and answers alike whatever it holds. -/
theorem of_eq {op : State → Result} (h : ∀ s k, op (s.withSink k) = answerWithSink k (op s)) : SinkBlind op :=
  fun s k => ⟨k, h s k⟩

/-- An operation that does nothing. -/
theorem unchanged : SinkBlind fun s => .next s := of_eq fun _ _ => rfl

theorem andThen {f g : State → Result} (hf : SinkBlind f) (hg : SinkBlind g) : SinkBlind fun s => Machine.andThen (f s) g := by
  intro s k
  obtain ⟨k', hk⟩ := hf s k
  simp only [hk]
  cases f s with
  | next t => exact hg t k'
  | fault x => exact ⟨k', rfl⟩
  | refused x => exact ⟨k', rfl⟩

theorem ite {c : State → Prop} [DecidablePred c] {f g : State → Result} (hc : ∀ s k, c (s.withSink k) ↔ c s) (hf : SinkBlind f)
    (hg : SinkBlind g) : SinkBlind fun s => if c s then f s else g s := by
  intro s k
  simp only [hc]
  split
  · exact hf s k
  · exact hg s k

theorem forEach {α : Type} {f : α → State → Result} (hf : ∀ x, SinkBlind (f x)) (xs : List α) :
    SinkBlind (Machine.forEach f xs) := by
  induction xs with
  | nil => exact unchanged
  | cons x xs ih => exact andThen (hf x) ih

/-- An emission appends to the list and goes to the sink, whatever it holds (R14, R47). -/
theorem emit (e : Event) : SinkBlind fun s => .next (Machine.emit e s) := update fun _ k => ⟨k.apply e, rfl⟩

theorem setButton (b : Fin 21) (x : Bool) : SinkBlind fun s => .next (Machine.setButton b x s) :=
  update fun _ k => ⟨k.apply (if x then .press b else .release b), rfl⟩

theorem sethat (v : HatVal) : SinkBlind (execSethat v) := update fun s k => ⟨k.apply (.setHat (v.code s.params)), rfl⟩

/-- Routing hands the entry's event, if any, to the sink (R131 to R133). -/
theorem routed (e : Entry) (cur : State → Bool) (hcur : ∀ s k, cur (s.withSink k) = cur s) :
    SinkBlind fun s => .next (Machine.routed e (cur s) s) := by
  refine update fun s k => ?_
  rw [hcur]
  cases e with
  | unmapped => exact ⟨k, rfl⟩
  | button b => exact ⟨k.apply (if cur s then .press b else .release b), rfl⟩
  | hat d => exact ⟨k.apply (.setHat (if cur s then Sys2Proof.hatconv d else s.params.hatCentered)), rfl⟩

theorem routeEntry (e : Entry) : SinkBlind (Machine.routeEntry e) := by
  rw [funext (routeEntry_eq e)]
  exact routed e curBit fun _ _ => rfl

theorem lookup (p : Fin 4) (i : Fin 8) : SinkBlind (execLookup p i) := by
  refine of_eq fun s k => ?_
  have hvar : (s.withSink k).var = s.var := rfl
  have htbl : ∀ v, (s.withSink k).tblByte v (linearIndex p i) = s.tblByte v (linearIndex p i) := fun _ => rfl
  simp only [execLookup, hvar, htbl]
  cases s.var with
  | absent => rfl
  | held v =>
    dsimp only
    cases Entry.ofByte (s.tblByte v (linearIndex p i)) <;> rfl

/-- A visit is a test of two bits, a lookup and a routing (R130). -/
theorem visit (p : Fin 4 × Fin 8) : SinkBlind (Machine.visit p) := by
  have hbody : SinkBlind fun t => if curBit t = prevBit t then .next t else
      Machine.andThen (execLookup p.1 p.2 t) fun u => Machine.routeEntry u.loc.entry u :=
    ite (fun _ _ => Iff.rfl) unchanged (andThen (lookup p.1 p.2) fun u => routeEntry u.loc.entry u)
  exact fun s k => hbody (moveScan p s) k

theorem scan : SinkBlind execScan := forEach visit scanOrder

theorem synb : SinkBlind execSynb :=
  ite (fun _ _ => Iff.rfl)
    (update fun s k => ⟨k.apply (if s.syn then .press s.params.synButton else .release s.params.synButton), rfl⟩) unchanged

theorem commit : SinkBlind execCommit := of_eq fun _ _ => rfl

/-- The reset's events reach whatever sink there is (R174). -/
theorem enterSafeState_withSink (s : State) (k : Sink) :
    enterSafeState (s.withSink k) = (enterSafeState s).withSink ((safeResetEvents s.params).foldl Sink.apply k) := by
  rw [enterSafeState_spec, enterSafeState_spec]
  rfl

theorem safereset : SinkBlind execSafereset := update fun s k => ⟨_, enterSafeState_withSink s k⟩

theorem loadvar (v : Variant) : SinkBlind (execLoadvar v) :=
  ite (fun _ _ => Iff.rfl) (of_eq fun _ _ => rfl) (of_eq fun _ _ => rfl)

/-- IDSTEP by the class: each arm is a sequence of operations that are blind to the sink (R108). -/
theorem idstep : SinkBlind execIdstep := by
  intro s k
  have hcls : (s.withSink k).loc.cls = s.loc.cls := rfl
  simp only [execIdstep, hcls]
  cases s.loc.cls with
  | absent =>
    have harm : SinkBlind fun x => Machine.andThen (if x.safe then .next x else execSafereset x)
        fun t => .next (takePath .absentPath (t.withVar .absent)) :=
      andThen (ite (fun _ _ => Iff.rfl) unchanged safereset) (of_eq fun _ _ => rfl)
    exact harm s k
  | noMatch => exact ⟨k, rfl⟩
  | matched v =>
    have harm : SinkBlind fun x => Machine.andThen (if x.var = .absent then execLoadvar v x else .next x)
        fun t => .next (takePath (if t.var = .held v then .diff else .skip) t) :=
      andThen (ite (fun _ _ => Iff.rfl) (loadvar v) unchanged) (of_eq fun _ _ => rfl)
    exact harm s k

/-- The path's operations (R155). -/
theorem runPath : SinkBlind Machine.runPath := by
  intro s k
  have hpath : (s.withSink k).loc.path = s.loc.path := rfl
  simp only [Machine.runPath, hpath]
  cases s.loc.path with
  | diff => exact andThen scan (andThen synb (andThen commit (emit .flush))) s k
  | skip => exact ⟨k, rfl⟩
  | absentPath => exact ⟨k, rfl⟩

theorem readFrame : SinkBlind Machine.readFrame := by
  rw [funext readFrame_eq]
  exact of_eq fun _ _ => rfl

/-- POLL is a sequence of operations that are blind to the sink, after a check of the configuration (R155). -/
theorem poll : SinkBlind execPoll :=
  ite (fun _ _ => Iff.rfl) (andThen readFrame (andThen (of_eq fun _ _ => rfl) (andThen idstep runPath))) (of_eq fun _ _ => rfl)

/-- Every instruction is blind to the sink (R162). -/
theorem exec (i : Instr) : SinkBlind (Machine.exec i) := by
  cases hi : i.entry? with
  | some e =>
    rw [funext (exec_of_entry? hi)]
    exact routed e curBit fun _ _ => rfl
  | none =>
    cases i
    all_goals simp only [Instr.entry?, reduceCtorEq] at hi
    case rdframe =>
      rw [funext exec_rdframe]
      exact of_eq fun _ _ => rfl
    case idstep => exact idstep
    case loadvar v => exact loadvar v
    case lookup p i => exact lookup p i
    case scan => exact scan
    case routeBtn b cur => exact setButton b cur
    case routeHat d cur =>
      rw [funext (exec_routeHat d cur)]
      exact routed (.hat d) (fun _ => cur) fun _ _ => rfl
    case synb => exact synb
    case poll => exact poll
    case press b => exact setButton b true
    case release b => exact setButton b false
    case sethat v => exact sethat v
    case flush => exact emit .flush
    case safereset => exact safereset
    case poreset => exact update fun _ k => ⟨k, rfl⟩
    all_goals exact of_eq fun _ _ => rfl

end SinkBlind

/-- Settles O57: every instruction is blind to the sink, whichever of the three answers it gives. -/
theorem noInstructionReadsTheSink : Obligations.NoInstructionReadsTheSink := by
  intro i s k
  obtain ⟨k', hk⟩ := SinkBlind.exec i s k
  refine ⟨fun t ht => ⟨k', ?_⟩, fun x hx => ?_, fun x hx => ?_⟩
  · rw [ht] at hk; exact hk
  · rw [hx] at hk; exact hk
  · rw [hx] at hk; exact hk

end Sys2Proof.Machine
end

section
/-! The words the host places: a frame, or an entry byte under the one changed bit of a diff cycle (log 10, log 22). -/

namespace Sys2Proof.Machine

/-! ### A frame word -/

/-- A frame presented on the bus is the frame the next cycle reads (R91). -/
theorem pollFrame_presentFrame (s : State) (f : Frame) : pollFrame (s.presentFrame f) = f := Frame.invert_invert f

/-- A word of 40 bits is a frame. -/
theorem decodeTableWord_frame (w : Nat) : decodeTableWord 40 w = some (decodeFrame (Frame.ofF40 (BitVec.ofNat 40 w))) := by
  simp [decodeTableWord, Except.toOption]

/-- A shorter word is an entry byte (log 22). -/
theorem decodeTableWord_entry {nbits w : Nat} (h0 : 0 < nbits) (h40 : nbits < 40) :
    decodeTableWord nbits w = some (decodeEntry (BitVec.ofNat 8 w)) := by
  have hne : ¬ nbits = 0 := by omega
  simp only [decodeTableWord, hne, h40, if_false, if_true]
  rfl

/-! ### An entry word -/

/-- Providing a legal byte keeps the other entries, so the configuration stays well formed (R122). -/
theorem configOk_presentEntry {s : State} {b : Byte} {e : Entry} (hcfg : s.configOk = true) (hrom : s.rom.wf = true)
    (he : Entry.ofByte b = some e) : (s.presentEntry b).configOk = true := by
  obtain ⟨hlegal, hparams⟩ := Bool.and_eq_true_iff.1 hcfg
  refine Bool.and_eq_true_iff.2 ⟨(legal_iff _).2 fun v i => ?_, hparams⟩
  have hread : (s.presentEntry b).rom.read (tableAddr v i) =
      if tableAddr v i = tableAddr .a 0 then b else s.rom.read (tableAddr v i) := Memory.read_insert b _ hrom
  rw [hread]
  split
  · exact ⟨e, he⟩
  · exact (legal_iff _).1 hlegal v i

/-- The byte stands at index 0 of table A. -/
theorem tblByte_presentEntry {s : State} (b : Byte) (hrom : s.rom.wf = true) : (s.presentEntry b).tblByte .a 0 = b := by
  have hread : (s.presentEntry b).rom.read (tableAddr .a 0) = if tableAddr .a 0 = tableAddr .a 0 then b else _ :=
    Memory.read_insert b _ hrom
  rw [State.tblByte, hread, if_pos rfl]

/-- The frame presented with the byte. -/
theorem pollFrame_presentEntry (s : State) (b : Byte) : pollFrame (s.presentEntry b) = #v[0x21, 0, 0, 0, 0x0F] :=
  Frame.invert_invert _

/-- The frame presented with the byte is VariantA's, which is held. -/
theorem diffFor_presentEntry (s : State) (b : Byte) : DiffFor .a (s.presentEntry b) := by
  refine ⟨?_, .inr rfl⟩
  rw [pollClass, pollFrame_presentEntry]
  decide

/-- Of the frame presented with the byte only bit 0 of byte 0 differs from the previous one. -/
theorem changedAt_presentEntry (p : Fin 4 × Fin 8) :
    changedAt (Frame.data #v[0x21, 0, 0, 0, 0x0F]) #v[0x20, 0, 0, 0] p = decide (p = (0, 0)) := by
  revert p; decide

/-- One position of the scan is position (0, 0). -/
theorem filterMap_scanOrder_first (x : Option Event) :
    (scanOrder.filterMap fun p => if p = (0, 0) then x else none) = x.toList := by
  cases x <;> rfl

/-- The scan meets the byte's entry as an active bit, and no other changed bit (R130). -/
theorem scanEvents_presentEntry {s : State} {b : Byte} {e : Entry} (hrom : s.rom.wf = true) (he : Entry.ofByte b = some e) :
    scanEvents (s.presentEntry b) .a (Frame.data #v[0x21, 0, 0, 0, 0x0F]) (s.presentEntry b).prev =
      (eventOf s.params true e).toList := by
  have hprev : (s.presentEntry b).prev = #v[0x20, 0, 0, 0] := rfl
  have hentry : entryAt (s.presentEntry b) .a (0, 0) = some e := by
    have hbyte : entryAt (s.presentEntry b) .a (0, 0) = Entry.ofByte ((s.presentEntry b).tblByte .a 0) := rfl
    rw [hbyte, tblByte_presentEntry b hrom, he]
  rw [← filterMap_scanOrder_first, scanEvents, hprev]
  refine List.filterMap_congr fun p _ => ?_
  simp only [changedAt_presentEntry, decide_eq_true_eq]
  split
  · next hp => rw [hp, hentry]; rfl
  · rfl

/-- Settles O43: the frame word by the row of its frame, the entry word by a diff cycle of one changed bit. -/
theorem fetchWordIsTheNextFrame : Obligations.FetchWordIsTheNextFrame := by
  refine ⟨fun s w hcfg => ⟨_, decodeTableWord_frame w, ?_⟩,
    fun s nbits w hcfg hrom h0 h40 => ⟨decodeTableWord_entry h0 h40, ?_⟩⟩
  · have hword : s.withFetchWord 40 w = s.presentFrame (Frame.ofF40 (BitVec.ofNat 40 w)) := rfl
    have hrun := step_eq_exec_decodeFrame (s := s.withFetchWord 40 w) hcfg
    rwa [hword, pollFrame_presentFrame] at hrun
  · have hword : s.withFetchWord nbits w = s.presentEntry (BitVec.ofNat 8 w) := if_pos h40
    rw [hword]
    refine ⟨fun e he => ?_, fun he => ?_⟩
    · obtain ⟨u, hu, ht⟩ := step_diff_completes (configOk_presentEntry hcfg hrom he) (diffFor_presentEntry s _)
      refine ⟨_, ht, ?_⟩
      rw [(diffEnd_afterScan hu).events, pollFrame_presentEntry, scanEvents_presentEntry hrom he, synEvents_of_settled (v := .a) nofun,
        List.append_nil]
    · exact step_of_illegal_entry (v := .a) (i := 0) (by rw [tblByte_presentEntry _ hrom, he])

end Sys2Proof.Machine
end
